-- ==== Sys2Proof/Word.lean ====
section
/-! DEFINITION. The value types of the rc80 core (10_state.md R20, R22, R25, R30). -/

namespace Sys2Proof

/-- A byte: a register, a memory byte, a timer (R20). -/
abbrev Byte := BitVec 8

/-- A 16-bit value: an opcode, `pc`, `I`, a stack entry (R20, R80). -/
abbrev Word := BitVec 16

/-- A register index: the 4-bit field X or Y, 0 for V0 to 15 for VF (R22). -/
abbrev RegIx := Fin 16

end Sys2Proof
end

