-- ==== Sys2Proof/Config.lean ====
section
/-! DEFINITION. The implementation parameters of 00_scope.md R11. The two named parameters that R12 speaks of have their
alternatives here; the values this hardware takes are in Machine/Params.lean. -/

namespace Sys2Proof.Config

/-- `MEM_SIZE`: addresses 0x000 to 0xFFF. -/
@[simp] abbrev memSize : Nat := 4096

/-- `PROG_BASE`: where `load` places the image. -/
@[simp] abbrev progBase : Nat := 0x200

/-- `MAX_IMAGE` = `MEM_SIZE` - `PROG_BASE`. -/
@[simp] abbrev maxImage : Nat := 3584

/-- `PC_RESET`. -/
@[simp] abbrev pcReset : Word := 0x200

/-- `STACK_DEPTH`. -/
@[simp] abbrev stackDepth : Nat := 16

/-- `FB_W`: pixels in a row. -/
@[simp] abbrev fbWidth : Nat := 64

/-- `FB_H`: rows. -/
@[simp] abbrev fbHeight : Nat := 32

/-- `SPRITE_W`: pixels of one sprite row, one byte a row. -/
@[simp] abbrev spriteWidth : Nat := 8

/-- `SPRITE_MAX_ROWS`: N is a 4-bit field. -/
@[simp] abbrev spriteMaxRows : Nat := 15

/-- `INSN_BYTES`. -/
@[simp] abbrev insnBytes : Nat := 2

/-- `I_OVERFLOW`: what FX1E does when `I + V[X]` passes 0xFFFF (R12, 43_index_memory.md R203). -/
inductive IndexOverflow where
  | fault
  | wrap16
  deriving DecidableEq, Repr

/-- `SHR_VF`: what 8XY6 writes to VF (R12, 42_registers_alu.md R172). -/
inductive ShrFlag where
  | zero
  | lsb
  deriving DecidableEq, Repr

end Sys2Proof.Config
end

