-- ==== Sys2Proof/Syntax.lean ====
section
/-! DEFINITION. The 25 instructions of 30_encoding.md R84, one constructor per row of the opcode table, in the table's order.
An address NNN is already zero-extended to 16 bits (R83) and a row count N is a number; WellFormed.lean bounds both. -/

namespace Sys2Proof

inductive Instr where
  /-- `00E0` CLS (R231). -/
  | cls
  /-- `00EE` RET (R131). -/
  | ret
  /-- `1NNN` JP NNN (R132). -/
  | jp (nnn : Word)
  /-- `2NNN` CALL NNN (R134). -/
  | call (nnn : Word)
  /-- `3XNN` SE VX, NN (R136). -/
  | seImm (x : RegIx) (nn : Byte)
  /-- `4XNN` SNE VX, NN (R137). -/
  | sneImm (x : RegIx) (nn : Byte)
  /-- `5XY0` SE VX, VY (R138). -/
  | seReg (x y : RegIx)
  /-- `6XNN` LD VX, NN (R163). -/
  | ldImm (x : RegIx) (nn : Byte)
  /-- `7XNN` ADD VX, NN (R164). -/
  | addImm (x : RegIx) (nn : Byte)
  /-- `8XY0` LD VX, VY (R165). -/
  | ldReg (x y : RegIx)
  /-- `8XY1` OR VX, VY (R166). -/
  | orReg (x y : RegIx)
  /-- `8XY2` AND VX, VY (R167). -/
  | andReg (x y : RegIx)
  /-- `8XY3` XOR VX, VY (R168). -/
  | xorReg (x y : RegIx)
  /-- `8XY4` ADD VX, VY (R169). -/
  | addReg (x y : RegIx)
  /-- `8XY5` SUB VX, VY (R170). -/
  | subReg (x y : RegIx)
  /-- `8XY6` SHR VX, VY (R172). -/
  | shrReg (x y : RegIx)
  /-- `8XY7` SUBN VX, VY (R173). -/
  | subnReg (x y : RegIx)
  /-- `8XYE` SHL VX, VY (R174). -/
  | shlReg (x y : RegIx)
  /-- `9XY0` SNE VX, VY (R139). -/
  | sneReg (x y : RegIx)
  /-- `ANNN` LD I, NNN (R201). -/
  | ldIndex (nnn : Word)
  /-- `DXYN` DRW VX, VY, N (R233). -/
  | drw (x y : RegIx) (n : Nat)
  /-- `FX1E` ADD I, VX (R203). -/
  | addIndex (x : RegIx)
  /-- `FX33` LD B, VX (R205). -/
  | ldBcd (x : RegIx)
  /-- `FX55` LD [I], VX (R206). -/
  | storeRegs (x : RegIx)
  /-- `FX65` LD VX, [I] (R207). -/
  | loadRegs (x : RegIx)
  deriving DecidableEq, Repr

end Sys2Proof
end

