-- ==== Sys2Proof/WellFormed.lean ====
section
/-! DEFINITION. Which terms of `Instr` an opcode can stand for (30_encoding.md R81, R83): the address fields are 12 bits wide
and the row count 4 bits. Register indices and immediate bytes are bounded by their types. -/

namespace Sys2Proof

/-- `NNN` lies in [0x000, 0xFFF] (R83). -/
def addressFits (nnn : Word) : Bool := decide (nnn.toNat < 0x1000)

/-- `N` is at most 15 (R83). -/
def rowsFit (n : Nat) : Bool := decide (n ≤ Config.spriteMaxRows)

/-- Every operand lies in the range its field can hold. -/
def Instr.wellFormed : Instr → Bool
  | .cls => true
  | .ret => true
  | .jp nnn => addressFits nnn
  | .call nnn => addressFits nnn
  | .seImm _ _ => true
  | .sneImm _ _ => true
  | .seReg _ _ => true
  | .ldImm _ _ => true
  | .addImm _ _ => true
  | .ldReg _ _ => true
  | .orReg _ _ => true
  | .andReg _ _ => true
  | .xorReg _ _ => true
  | .addReg _ _ => true
  | .subReg _ _ => true
  | .shrReg _ _ => true
  | .subnReg _ _ => true
  | .shlReg _ _ => true
  | .sneReg _ _ => true
  | .ldIndex nnn => addressFits nnn
  | .drw _ _ n => rowsFit n
  | .addIndex _ => true
  | .ldBcd _ => true
  | .storeRegs _ => true
  | .loadRegs _ => true

end Sys2Proof
end

