-- ==== Sys2Proof/Decode.lean ====
section
/-! DEFINITION. The decoder (30_encoding.md R80 to R88), the encoder written from the same table, and the table itself as data
(R84's match and mask columns). -/

namespace Sys2Proof

/-! ## Byte order -/

/-- Two consecutive bytes, the first in bits 15:8 (20_memory.md R51). -/
def joinBytes (first second : Byte) : Word := first ++ second

/-- Bits 15:8 of an opcode, stored at the lower address (R80). -/
def highByte (op : Word) : Byte := op.extractLsb' 8 8

/-- Bits 7:0 of an opcode, stored at the higher address. -/
def lowByte (op : Word) : Byte := op.extractLsb' 0 8

/-! ## Fields (R81) -/

/-- `o` = op[15:12]. -/
def fieldFamily (op : Word) : Nat := op.toNat / 0x1000

/-- `X` = op[11:8]. -/
def fieldX (op : Word) : RegIx := Fin.ofNat 16 (op.toNat / 0x100)

/-- `Y` = op[7:4]. -/
def fieldY (op : Word) : RegIx := Fin.ofNat 16 (op.toNat / 0x10)

/-- `N` = op[3:0]. -/
def fieldN (op : Word) : Nat := op.toNat % 0x10

/-- `NN` = op[7:0]. -/
def fieldNN (op : Word) : Byte := BitVec.ofNat 8 op.toNat

/-- `NNN` = op[11:0], zero-extended to 16 bits (R83). -/
def fieldNNN (op : Word) : Word := BitVec.ofNat 16 (op.toNat % 0x1000)

/-! ## Decode (R85) -/

/-- What an opcode decodes to: a row of the table, or `Unsupported(op)`, which rejects the opcode by its own value (R85, R86). -/
inductive Decoded where
  | instr (i : Instr)
  | unsupported (op : Word)
  deriving DecidableEq, Repr

/-- Family 0: only 0x00E0 and 0x00EE are instructions (format Z is exact). -/
def decodeZ (op : Word) : Decoded :=
  if op = 0x00E0 then .instr .cls
  else if op = 0x00EE then .instr .ret
  else .unsupported op

/-- Family 8: the function nibble selects the operation (R86, R175). -/
def decodeAlu (op : Word) : Decoded :=
  match fieldN op with
  | 0x0 => .instr (.ldReg (fieldX op) (fieldY op))
  | 0x1 => .instr (.orReg (fieldX op) (fieldY op))
  | 0x2 => .instr (.andReg (fieldX op) (fieldY op))
  | 0x3 => .instr (.xorReg (fieldX op) (fieldY op))
  | 0x4 => .instr (.addReg (fieldX op) (fieldY op))
  | 0x5 => .instr (.subReg (fieldX op) (fieldY op))
  | 0x6 => .instr (.shrReg (fieldX op) (fieldY op))
  | 0x7 => .instr (.subnReg (fieldX op) (fieldY op))
  | 0xE => .instr (.shlReg (fieldX op) (fieldY op))
  | _ => .unsupported op

/-- Family F: the function byte selects the operation. -/
def decodeF (op : Word) : Decoded :=
  match op.toNat % 0x100 with
  | 0x1E => .instr (.addIndex (fieldX op))
  | 0x33 => .instr (.ldBcd (fieldX op))
  | 0x55 => .instr (.storeRegs (fieldX op))
  | 0x65 => .instr (.loadRegs (fieldX op))
  | _ => .unsupported op

/-- Families 5 and 9: the last nibble must be 0 (R86, 92_eei_decisions.md D18). -/
def decodeXY0 (op : Word) (i : Instr) : Decoded :=
  if fieldN op = 0 then .instr i else .unsupported op

/-- The decoder: pure, total, one row of R84 or `Unsupported(op)` (R85). -/
def decode (op : Word) : Decoded :=
  match fieldFamily op with
  | 0x0 => decodeZ op
  | 0x1 => .instr (.jp (fieldNNN op))
  | 0x2 => .instr (.call (fieldNNN op))
  | 0x3 => .instr (.seImm (fieldX op) (fieldNN op))
  | 0x4 => .instr (.sneImm (fieldX op) (fieldNN op))
  | 0x5 => decodeXY0 op (.seReg (fieldX op) (fieldY op))
  | 0x6 => .instr (.ldImm (fieldX op) (fieldNN op))
  | 0x7 => .instr (.addImm (fieldX op) (fieldNN op))
  | 0x8 => decodeAlu op
  | 0x9 => decodeXY0 op (.sneReg (fieldX op) (fieldY op))
  | 0xA => .instr (.ldIndex (fieldNNN op))
  | 0xD => .instr (.drw (fieldX op) (fieldY op) (fieldN op))
  | 0xF => decodeF op
  | _ => .unsupported op

/-- Decoding the two bytes of an instruction as they lie in memory. -/
def decodeBytes (first second : Byte) : Decoded := decode (joinBytes first second)

/-- The instruction the decoder reads from a table word: the word's bytes laid out as memory holds them, then decoded. Bits
above `nbits` are zero. -/
def decodeTableWord (nbits w : Nat) : Option Instr :=
  let op : Word := BitVec.ofNat 16 (w % 2 ^ nbits)
  match decodeBytes (highByte op) (lowByte op) with
  | .instr i => some i
  | .unsupported _ => none

/-! ## Encode (R82, R84) -/

/-- Format A: `oooo NNNN NNNN NNNN`. -/
def packA (family : Nat) (nnn : Word) : Word := BitVec.ofNat 16 (family * 0x1000 + nnn.toNat % 0x1000)

/-- Format XK: `oooo XXXX KKKK KKKK`. -/
def packXK (family : Nat) (x : RegIx) (nn : Nat) : Word :=
  BitVec.ofNat 16 (family * 0x1000 + x.val * 0x100 + nn % 0x100)

/-- Formats XY and XYN: `oooo XXXX YYYY nnnn`. -/
def packXYN (family : Nat) (x y : RegIx) (n : Nat) : Word :=
  BitVec.ofNat 16 (family * 0x1000 + x.val * 0x100 + y.val * 0x10 + n % 0x10)

/-- The word of an instruction. -/
def encode : Instr → Word
  | .cls => 0x00E0
  | .ret => 0x00EE
  | .jp nnn => packA 0x1 nnn
  | .call nnn => packA 0x2 nnn
  | .seImm x nn => packXK 0x3 x nn.toNat
  | .sneImm x nn => packXK 0x4 x nn.toNat
  | .seReg x y => packXYN 0x5 x y 0x0
  | .ldImm x nn => packXK 0x6 x nn.toNat
  | .addImm x nn => packXK 0x7 x nn.toNat
  | .ldReg x y => packXYN 0x8 x y 0x0
  | .orReg x y => packXYN 0x8 x y 0x1
  | .andReg x y => packXYN 0x8 x y 0x2
  | .xorReg x y => packXYN 0x8 x y 0x3
  | .addReg x y => packXYN 0x8 x y 0x4
  | .subReg x y => packXYN 0x8 x y 0x5
  | .shrReg x y => packXYN 0x8 x y 0x6
  | .subnReg x y => packXYN 0x8 x y 0x7
  | .shlReg x y => packXYN 0x8 x y 0xE
  | .sneReg x y => packXYN 0x9 x y 0x0
  | .ldIndex nnn => packA 0xA nnn
  | .drw x y n => packXYN 0xD x y n
  | .addIndex x => packXK 0xF x 0x1E
  | .ldBcd x => packXK 0xF x 0x33
  | .storeRegs x => packXK 0xF x 0x55
  | .loadRegs x => packXK 0xF x 0x65

/-! ## The opcode table as data (R84) -/

/-- The match and mask of an instruction's row, as R84 prints them: `op` selects the row if `op & mask == match`. -/
def tableRow : Instr → Word × Word
  | .cls => (0x00E0, 0xFFFF)
  | .ret => (0x00EE, 0xFFFF)
  | .jp _ => (0x1000, 0xF000)
  | .call _ => (0x2000, 0xF000)
  | .seImm _ _ => (0x3000, 0xF000)
  | .sneImm _ _ => (0x4000, 0xF000)
  | .seReg _ _ => (0x5000, 0xF00F)
  | .ldImm _ _ => (0x6000, 0xF000)
  | .addImm _ _ => (0x7000, 0xF000)
  | .ldReg _ _ => (0x8000, 0xF00F)
  | .orReg _ _ => (0x8001, 0xF00F)
  | .andReg _ _ => (0x8002, 0xF00F)
  | .xorReg _ _ => (0x8003, 0xF00F)
  | .addReg _ _ => (0x8004, 0xF00F)
  | .subReg _ _ => (0x8005, 0xF00F)
  | .shrReg _ _ => (0x8006, 0xF00F)
  | .subnReg _ _ => (0x8007, 0xF00F)
  | .shlReg _ _ => (0x800E, 0xF00F)
  | .sneReg _ _ => (0x9000, 0xF00F)
  | .ldIndex _ => (0xA000, 0xF000)
  | .drw _ _ _ => (0xD000, 0xF000)
  | .addIndex _ => (0xF01E, 0xF0FF)
  | .ldBcd _ => (0xF033, 0xF0FF)
  | .storeRegs _ => (0xF055, 0xF0FF)
  | .loadRegs _ => (0xF065, 0xF0FF)

/-- `op & mask == match` for the row of `i`. -/
def selects (i : Instr) (op : Word) : Bool := op &&& (tableRow i).2 == (tableRow i).1

end Sys2Proof
end

