-- ==== Sys2Proof/Machine/State.lean ====
section
/-! DEFINITION. The state record of 10_state.md R20, the fault records of 60_exceptions.md R261, why a step can stop, and the
reset state of 70_reset_and_hazards.md R290. -/

namespace Sys2Proof.Machine

/-! ## Memory (R36, R50) -/

/-- Memory as (address, byte) pairs in one canonical form; see `Memory.wf`. -/
abbrev Memory := List Host.Cell

/-- What an unlisted address reads as: every byte is 0x00 after `new()` (R20, R58, R290). -/
def Memory.blank : Byte := 0x00

/-- Addresses at least `lo`, strictly rising and inside 0x000..0xFFF, and no byte equal to `Memory.blank`. -/
def Memory.wfFrom : Nat → Memory → Bool
  | _, [] => true
  | lo, (a, b) :: rest =>
    decide (lo ≤ a) && decide (a < Config.memSize) && decide (b ≠ Memory.blank) && Memory.wfFrom (a + 1) rest

/-- The canonical form: two memories in it that read alike are equal data. -/
def Memory.wf (m : Memory) : Bool := Memory.wfFrom 0 m

/-! ## Faults (60_exceptions.md R260 to R268) -/

/-- The fault records of R261, with the values each one records. -/
inductive FaultRecord where
  /-- Code 1. Raised by the host operation `load` when the image is longer than 3584 bytes (R268). Safe: the spec stops here. -/
  | loadFault (len : Nat)
  /-- Code 2. Raised by every step whose `pc + 1 >= 4096` (R263). Safe: the spec stops here. -/
  | fetchFault (pc : Word)
  /-- Code 3. Raised by 2NNN when SP = 16 (R264). Safe: the spec stops here. -/
  | stackOverflow (pc nnn : Word)
  /-- Code 4. Raised by 00EE when SP = 0 (R265). Safe: the spec stops here. -/
  | stackUnderflow (pc : Word)
  /-- Code 5. Raised by DXYN, FX33, FX55 and FX65 when the bytes `i .. i+n-1` pass 0xFFF (R266). Safe: the spec stops here. -/
  | memoryFault (pc op i : Word) (n : Nat)
  /-- Code 6. Raised by FX1E when `I + V[X] > 0xFFFF` and I_OVERFLOW is `fault` (R267). Safe: the spec stops here. -/
  | indexOverflow (pc i : Word) (vx : Byte)
  deriving DecidableEq, Repr

/-! ## Framebuffer (R35) -/

/-- `FB[y][x]`: 32 rows of 64 pixels, each on or off. -/
abbrev Framebuffer := Vector (Vector Bool 64) 32

/-! ## The state record (R20) -/

/-- Every element the spec gives the machine, and no other (R20, R21, R37). -/
structure State where
  /-- `M[0..4095]` (R36). -/
  mem : Memory
  /-- `V[0..15]`; VF is `v[15]` (R22). -/
  v : Vector Byte 16
  /-- `index_register` (R30). -/
  i : Word
  /-- `program_counter` (R25). -/
  pc : Word
  /-- `S[0..15]` (R31). -/
  stack : Vector Word 16
  /-- `stack_pointer`, exactly the 17 values 0 to 16 (R32). -/
  sp : Fin 17
  /-- `delay_timer` (R34). -/
  dt : Byte
  /-- `sound_timer` (R34). -/
  st : Byte
  /-- The framebuffer (R35). -/
  fb : Framebuffer
  /-- The record of a fatal outcome, or none (R20, R37, R262). -/
  fault : Option FaultRecord
  deriving DecidableEq, Repr

/-- Why a step or a `load` stops with a fault. -/
inductive Fault where
  /-- The spec's fatal fault: raised by `load`, by a fetch or by an instruction, as `record` says (R261). `left` is the state
  the operation leaves: the state before it with the fault element set to `record` (R262). Safe: the spec ends the run here. -/
  | raised (record : FaultRecord) (left : State)
  deriving DecidableEq, Repr

/-- Why there is no meaning. -/
inductive Refusal where
  /-- Raised by an arm of `exec` whose instruction has no meaning yet. Safe: nothing is claimed of it. -/
  | notModelled (mnemonic : String)
  /-- Raised by `step` on a state whose fault element holds `record`: "`step()` on it is not a transition of the model" (R114).
  Safe: nothing is claimed of such a step. -/
  | stepAfterFault (record : FaultRecord)
  /-- Raised by `load` on a state whose fault element holds `record`: R62 says it "is not modelled". Safe. -/
  | loadAfterFault (record : FaultRecord)
  deriving DecidableEq, Repr

/-- `new()`: every element zero but `pc = 0x200`, and no fault (R20, R290). -/
def State.reset : State where
  mem := []
  v := Vector.replicate 16 0x00
  i := 0x0000
  pc := Config.pcReset
  stack := Vector.replicate 16 0x0000
  sp := 0
  dt := 0x00
  st := 0x00
  fb := Vector.replicate 32 (Vector.replicate 64 false)
  fault := none

end Sys2Proof.Machine
end

