-- ==== Sys2Proof/Machine/Params.lean ====
section
/-! DEFINITION. The values this hardware gives the two named parameters (00_scope.md R11, R12), and the fault codes (R261). -/

namespace Sys2Proof.Machine

/-- `I_OVERFLOW` is `fault` for this hardware (R11; 92_eei_decisions.md D6; log 11). -/
def iOverflow : Config.IndexOverflow := .fault

/-- `SHR_VF` is `zero`, the reference behaviour (R11, R12; log 12). -/
def shrVf : Config.ShrFlag := .zero

/-- The code of a fault record (R261). -/
def FaultRecord.code : FaultRecord → Nat
  | .loadFault _ => 1
  | .fetchFault _ => 2
  | .stackOverflow _ _ => 3
  | .stackUnderflow _ => 4
  | .memoryFault _ _ _ _ => 5
  | .indexOverflow _ _ _ => 6

end Sys2Proof.Machine
end

