-- ==== Sys2Proof/Machine/Ops.lean ====
section
/-! DEFINITION. The shared operations over the state: registers, memory, the return stack, finishing an instruction, and
raising a fault. -/

namespace Sys2Proof.Machine

/-! ## General registers (10_state.md R22, R23) -/

/-- `V[x]`. -/
def State.reg (s : State) (x : RegIx) : Byte := s.v[x.val]

/-- `V[x] <- b`. -/
def State.setReg (s : State) (x : RegIx) (b : Byte) : State := { s with v := s.v.set x.val b x.isLt }

/-- VF, the flag register (R24, R28). -/
def vf : RegIx := 15

/-- `V[k] <- bytes[k]` for every k below the length of `bytes` (43_index_memory.md R207). -/
def State.setRegs (s : State) (bytes : List Byte) : State :=
  { s with v := s.v.mapIdx fun k b => bytes.getD k b }

/-! ## The other elements, one update each -/

/-- `I <- w` (R30). -/
def State.setIndex (s : State) (w : Word) : State := { s with i := w }

/-- `pc <- w` (R25). -/
def State.setPc (s : State) (w : Word) : State := { s with pc := w }

/-- `M` becomes `m` (R36). -/
def State.setMem (s : State) (m : Memory) : State := { s with mem := m }

/-- `FB` becomes `fb` (R35). -/
def State.setFb (s : State) (fb : Framebuffer) : State := { s with fb := fb }

/-- The stack slots and `SP` (R31). -/
def State.setStack (s : State) (stack : Vector Word 16) (sp : Fin 17) : State := { s with stack := stack, sp := sp }

/-- `DT` and `ST` (R34). -/
def State.setTimers (s : State) (dt st : Byte) : State := { s with dt := dt, st := st }

/-- The fault element (R37, R262). -/
def State.setFault (s : State) (r : Option FaultRecord) : State := { s with fault := r }

/-! ## Memory (20_memory.md R50 to R56) -/

/-- `M[a]`. -/
def Memory.read : Memory → Nat → Byte
  | [], _ => Memory.blank
  | (a, b) :: rest, k => if a = k then b else Memory.read rest k

/-- Put `b` at address `k` in front of `rest`, unless that is what an unlisted address reads as. -/
def Memory.cons (k : Nat) (b : Byte) (rest : Memory) : Memory :=
  if b = Memory.blank then rest else (k, b) :: rest

/-- `M[k] <- b`, keeping the canonical form. -/
def Memory.write : Memory → Nat → Byte → Memory
  | [], k, b => Memory.cons k b []
  | (a, c) :: rest, k, b =>
    if k < a then Memory.cons k b ((a, c) :: rest)
    else if k = a then Memory.cons k b rest
    else (a, c) :: Memory.write rest k b

/-- `M[a] <- b[0]`, `M[a+1] <- b[1]`, and so on. -/
def Memory.writeBytes : Memory → Nat → List Byte → Memory
  | m, _, [] => m
  | m, a, b :: bs => Memory.writeBytes (m.write a b) (a + 1) bs

/-- A data access of `n` bytes at `a` is in range if and only if `a + max(n, 1) <= 4096` (R55). -/
def inRange (a n : Nat) : Bool := decide (a + max n 1 ≤ Config.memSize)

/-- `MemRead(a, n)`: the n bytes, or none where the access is out of range (00_scope.md R15, R55). -/
def State.memRead (s : State) (a n : Nat) : Option (List Byte) :=
  if inRange a n then some ((List.range n).map fun k => s.mem.read (a + k)) else none

/-- `MemWrite(a, n, bytes)`: the state with the bytes written, or none where the access is out of range; nothing is written
then (R15, R55, R200). -/
def State.memWrite (s : State) (a : Nat) (bytes : List Byte) : Option State :=
  if inRange a bytes.length then some (s.setMem (s.mem.writeBytes a bytes)) else none

/-! ## The return stack (10_state.md R31 to R33) -/

/-- `S[SP] <- w; SP <- SP + 1`, or none where the stack is full (41_control_flow.md R134). -/
def State.push (s : State) (w : Word) : Option State :=
  if h : s.sp.val < 16 then
    some (s.setStack (s.stack.set s.sp.val w h) ⟨s.sp.val + 1, by omega⟩)
  else none

/-- `SP <- SP - 1` and the value of `S[SP]` after it, or none where the stack is empty (R131). The slot keeps its value (R33). -/
def State.pop (s : State) : Option (Word × State) :=
  if h : 0 < s.sp.val then
    some (s.stack[s.sp.val - 1]'(by omega), s.setStack s.stack ⟨s.sp.val - 1, by omega⟩)
  else none

/-! ## Finishing an instruction (40_cycle.md R110, R115, R116) -/

/-- What an instruction's rule returns for the program counter. -/
inductive NextPc where
  | next
  | skipNext
  | target (w : Word)
  deriving DecidableEq, Repr

/-- The program counter after the step, from the address of the instruction (R110). -/
def NextPc.after : NextPc → Word → Word
  | .next, pc => pc + 2
  | .skipNext, pc => pc + 4
  | .target w, _ => w

/-- The instruction completes: `pc` advances last. -/
def complete (n : NextPc) (s : State) : Host.Outcome State Fault Refusal := .next (s.setPc (n.after s.pc))

/-! ## Taking a fault (60_exceptions.md R262, R272, R273)

There is no trap entry: a fault saves nothing, changes no mode and jumps to no vector. There is no return from a fault
either; only `new()` gives a state that runs (R114, R273), and that is `State.reset`. -/

/-- `raise F(info)`: the operation ends with the fault, and the state it leaves is the one before it with the fault element set
(R15, R262). `s` is the state before the operation. -/
def raise (r : FaultRecord) (s : State) : Host.Outcome State Fault Refusal := .fault (.raised r (s.setFault (some r)))

end Sys2Proof.Machine
end

