-- ==== Sys2Proof/Machine/Operands.lean ====
section
/-! DEFINITION. The operand forms: data addresses and counts, skips, decimal digits, sprite bits. -/

namespace Sys2Proof.Machine

/-- The data address `I + k`, an exact sum (20_memory.md R56, 43_index_memory.md R200). -/
def State.dataAddr (s : State) (k : Nat) : Nat := s.i.toNat + k

/-- How many registers FX55 and FX65 move: X + 1 (30_encoding.md R83). -/
def transferCount (x : RegIx) : Nat := x.val + 1

/-- `V[0], V[1], ..., V[X]` (43_index_memory.md R206). -/
def State.regsUpTo (s : State) (x : RegIx) : List Byte := s.v.toList.take (transferCount x)

/-- `I` advanced past a block of `n` bytes (R206, R207). -/
def State.indexPast (s : State) (n : Nat) : Word := s.i + BitVec.ofNat 16 n

/-- A skip's result: `SkipNext` when its condition holds, `Next` otherwise (41_control_flow.md R135). -/
def skipIf (c : Bool) : NextPc := if c then .skipNext else .next

/-- The hundreds, tens and units digit of a byte, each as a byte 0x00 to 0x09 (43_index_memory.md R204; log 17). -/
def decimalDigits (b : Byte) : List Byte :=
  [BitVec.ofNat 8 (b.toNat / 100), BitVec.ofNat 8 (b.toNat / 10 % 10), BitVec.ofNat 8 (b.toNat % 10)]

/-- The 8 bits of a sprite byte, most significant first (44_display.md R232). -/
def byteBits (b : Byte) : List Bool := (List.range Config.spriteWidth).map fun c => b.getLsbD (7 - c)

/-- The bit sequence of a sprite: bit j is bit `7 - j mod 8` of byte `j div 8` (R232). -/
def spriteBits (bytes : List Byte) : List Bool := bytes.flatMap byteBits

end Sys2Proof.Machine
end

