-- ==== Sys2Proof/Machine/ControlFlow.lean ====
section
/-! DEFINITION. 00EE, 1NNN, 2NNN, 3XNN, 4XNN, 5XY0, 9XY0 (41_control_flow.md). `s.pc` is the instruction's own address (R25). -/

namespace Sys2Proof.Machine

/-- `00EE`: pop, and continue 2 past the popped address (R131). -/
def execRet (s : State) : Host.Outcome State Fault Refusal :=
  match s.pop with
  | none => raise (.stackUnderflow s.pc) s
  | some (w, popped) => complete (.target (w + 2)) popped

/-- `1NNN` (R132). -/
def execJp (nnn : Word) (s : State) : Host.Outcome State Fault Refusal := complete (.target nnn) s

/-- `2NNN`: push the call's own address, and continue at NNN (R134). -/
def execCall (nnn : Word) (s : State) : Host.Outcome State Fault Refusal :=
  match s.push s.pc with
  | none => raise (.stackOverflow s.pc nnn) s
  | some pushed => complete (.target nnn) pushed

/-- `3XNN` (R136). -/
def execSeImm (x : RegIx) (nn : Byte) (s : State) : Host.Outcome State Fault Refusal :=
  complete (skipIf (s.reg x == nn)) s

/-- `4XNN` (R137). -/
def execSneImm (x : RegIx) (nn : Byte) (s : State) : Host.Outcome State Fault Refusal :=
  complete (skipIf (s.reg x != nn)) s

/-- `5XY0` (R138). -/
def execSeReg (x y : RegIx) (s : State) : Host.Outcome State Fault Refusal :=
  complete (skipIf (s.reg x == s.reg y)) s

/-- `9XY0` (R139). -/
def execSneReg (x y : RegIx) (s : State) : Host.Outcome State Fault Refusal :=
  complete (skipIf (s.reg x != s.reg y)) s

end Sys2Proof.Machine
end

