-- ==== Sys2Proof/Machine/Compositor.lean ====
section
/-! DEFINITION. The display compositor: `draw(x, y, bit_sequence)` (44_display.md R230, R234 to R239). -/

namespace Sys2Proof.Machine

/-- `FB[y][x]`. -/
def Framebuffer.pixel (fb : Framebuffer) (x : Fin 64) (y : Fin 32) : Bool := (fb[y.val])[x.val]

/-- `FB[y][x] <- b`. -/
def Framebuffer.setPixel (fb : Framebuffer) (x : Fin 64) (y : Fin 32) (b : Bool) : Framebuffer :=
  fb.set y.val ((fb[y.val]).set x.val b x.isLt) y.isLt

/-- Every pixel 0 (R231). -/
def Framebuffer.clear : Framebuffer := Vector.replicate 32 (Vector.replicate 64 false)

/-- The destination column of sprite column `c`: `(x + c) mod 64` (R234). -/
def destX (x0 c : Nat) : Fin 64 := Fin.ofNat 64 (x0 + c)

/-- The destination row of sprite row `r`: `(y + r) mod 32` (R234). -/
def destY (y0 r : Nat) : Fin 32 := Fin.ofNat 32 (y0 + r)

/-- One sprite bit, number j of the sequence, in row `j div 8` and column `j mod 8`: the pixel becomes pixel XOR bit, and a
pixel that goes from 1 to 0 sets the collision flag (R232, R235, R236). -/
def drawBit (x0 y0 j : Nat) (bit : Bool) (acc : Framebuffer × Bool) : Framebuffer × Bool :=
  let px := destX x0 (j % Config.spriteWidth)
  let py := destY y0 (j / Config.spriteWidth)
  let old := acc.1.pixel px py
  (acc.1.setPixel px py (old ^^ bit), acc.2 || (bit && old))

/-- The bits from number j on, in order (R233). -/
def drawFrom (x0 y0 : Nat) : Nat → List Bool → Framebuffer × Bool → Framebuffer × Bool
  | _, [], acc => acc
  | j, bit :: bits, acc => drawFrom x0 y0 (j + 1) bits (drawBit x0 y0 j bit acc)

/-- `draw(x, y, bit_sequence)`: the framebuffer after it and the collision flag, which starts at 0 (R236, R239). -/
def draw (x0 y0 : Byte) (bits : List Bool) (fb : Framebuffer) : Framebuffer × Bool :=
  drawFrom x0.toNat y0.toNat 0 bits (fb, false)

end Sys2Proof.Machine
end

