-- ==== Sys2Proof/Machine/Flags.lean ====
section
/-! DEFINITION. Every flag the spec computes (10_state.md R28), each from the values before the instruction (R160), and the
results they go with (42_registers_alu.md R161). -/

namespace Sys2Proof.Machine

/-- A flag as VF holds it: 1 or 0. -/
def flagByte (c : Bool) : Byte := if c then 1 else 0

/-- Carry out of an 8-bit sum: `a + b > 255` (R161, R169). -/
def carryFlag (a b : Byte) : Bool := decide (a.toNat + b.toNat > 255)

/-- Underflow of `a - b`: `a < b`; equal values do not underflow (R161, R162, R170, R173). -/
def underflowFlag (a b : Byte) : Bool := decide (a.toNat < b.toNat)

/-- The flag of 8XY6, by the parameter `SHR_VF` (R172; log 12). -/
def shrFlag (mode : Config.ShrFlag) (a : Byte) : Bool :=
  match mode with
  | .zero => false
  | .lsb => a.getLsbD 0

/-- The flag of 8XYE: bit 7 of the old value (R174; log 13). -/
def shlFlag (a : Byte) : Bool := a.getLsbD 7

/-- `(a + b) mod 256`. -/
def addBytes (a b : Byte) : Byte := BitVec.ofNat 8 ((a.toNat + b.toNat) % 256)

/-- `(a - b) mod 256`, which is `a - b + 256` when `a < b`. -/
def subBytes (a b : Byte) : Byte := BitVec.ofNat 8 ((a.toNat + 256 - b.toNat) % 256)

/-- `a >> 1`: bit 7 becomes 0, bit 0 is dropped. -/
def shrByte (a : Byte) : Byte := a >>> 1

/-- `(a << 1) mod 256`: bit 0 becomes 0, bit 7 is dropped. -/
def shlByte (a : Byte) : Byte := a <<< 1

/-- Write the result to `V[X]` and after it the flag to VF, so that the flag wins when X = F (R160; log 14). -/
def State.setRegFlag (s : State) (x : RegIx) (result : Byte) (flag : Bool) : State :=
  (s.setReg x result).setReg vf (flagByte flag)

end Sys2Proof.Machine
end

