-- ==== Sys2Proof/Machine/IndexMemory.lean ====
section
/-! DEFINITION. ANNN, FX1E, FX33, FX55, FX65 (43_index_memory.md). -/

namespace Sys2Proof.Machine

/-- `MemoryFault(pc, op, I, n)` of the instruction `ins` (60_exceptions.md R266; log 10). -/
def raiseMemoryFault (ins : Instr) (n : Nat) (s : State) : Host.Outcome State Fault Refusal :=
  raise (.memoryFault s.pc (encode ins) s.i n) s

/-- `ANNN` (R201). -/
def execLdIndex (nnn : Word) (s : State) : Host.Outcome State Fault Refusal := complete .next (s.setIndex nnn)

/-- FX1E for either value of the parameter `I_OVERFLOW` (R203). -/
def addToIndex (mode : Config.IndexOverflow) (vx : Byte) (s : State) : Host.Outcome State Fault Refusal :=
  let t := s.i.toNat + vx.toNat
  if t > 0xFFFF then
    match mode with
    | .fault => raise (.indexOverflow s.pc s.i vx) s
    | .wrap16 => complete .next (s.setIndex (BitVec.ofNat 16 (t % 0x10000)))
  else complete .next (s.setIndex (BitVec.ofNat 16 t))

/-- `FX1E` with this hardware's `I_OVERFLOW` (R203, 00_scope.md R12; log 11). -/
def execAddIndex (x : RegIx) (s : State) : Host.Outcome State Fault Refusal := addToIndex iOverflow (s.reg x) s

/-- `FX33`: I is not changed (R205). -/
def execLdBcd (x : RegIx) (s : State) : Host.Outcome State Fault Refusal :=
  match s.memWrite (s.dataAddr 0) (decimalDigits (s.reg x)) with
  | none => raiseMemoryFault (.ldBcd x) 3 s
  | some stored => complete .next stored

/-- `FX55`: I ends past the stored block (R206). -/
def execStoreRegs (x : RegIx) (s : State) : Host.Outcome State Fault Refusal :=
  match s.memWrite (s.dataAddr 0) (s.regsUpTo x) with
  | none => raiseMemoryFault (.storeRegs x) (transferCount x) s
  | some stored => complete .next (stored.setIndex (s.indexPast (transferCount x)))

/-- `FX65`: I ends past the loaded block; registers above X are not changed (R207). -/
def execLoadRegs (x : RegIx) (s : State) : Host.Outcome State Fault Refusal :=
  match s.memRead (s.dataAddr 0) (transferCount x) with
  | none => raiseMemoryFault (.loadRegs x) (transferCount x) s
  | some bytes => complete .next ((s.setRegs bytes).setIndex (s.indexPast (transferCount x)))

end Sys2Proof.Machine
end

