-- ==== Sys2Proof/Machine/Display.lean ====
section
/-! DEFINITION. 00E0 and DXYN (44_display.md). -/

namespace Sys2Proof.Machine

/-- `00E0`: VF is not written (R231). -/
def execCls (s : State) : Host.Outcome State Fault Refusal := complete .next (s.setFb Framebuffer.clear)

/-- `DXYN`: V[X], V[Y] and the sprite bytes are read before VF is reset, and VF ends as the collision flag (R233, R236, R239;
log 15). N = 0 draws nothing and sets VF to 0 (R238). -/
def execDrw (x y : RegIx) (n : Nat) (s : State) : Host.Outcome State Fault Refusal :=
  match s.memRead (s.dataAddr 0) n with
  | none => raiseMemoryFault (.drw x y n) n s
  | some bytes =>
    let drawn := draw (s.reg x) (s.reg y) (spriteBits bytes) s.fb
    complete .next ((s.setFb drawn.1).setReg vf (flagByte drawn.2))

end Sys2Proof.Machine
end

