-- ==== Sys2Proof/Machine/RegistersAlu.lean ====
section
/-! DEFINITION. 6XNN, 7XNN and 8XY0 to 8XYE (42_registers_alu.md). Every operand is read from the state before the
instruction (R160). -/

namespace Sys2Proof.Machine

/-- `6XNN` (R163). -/
def execLdImm (x : RegIx) (nn : Byte) (s : State) : Host.Outcome State Fault Refusal :=
  complete .next (s.setReg x nn)

/-- `7XNN`: no flag change (R164). -/
def execAddImm (x : RegIx) (nn : Byte) (s : State) : Host.Outcome State Fault Refusal :=
  complete .next (s.setReg x (addBytes (s.reg x) nn))

/-- `8XY0` (R165). -/
def execLdReg (x y : RegIx) (s : State) : Host.Outcome State Fault Refusal :=
  complete .next (s.setReg x (s.reg y))

/-- `8XY1`: VF is not reset (R166). -/
def execOrReg (x y : RegIx) (s : State) : Host.Outcome State Fault Refusal :=
  complete .next (s.setReg x (s.reg x ||| s.reg y))

/-- `8XY2`: VF is not reset (R167). -/
def execAndReg (x y : RegIx) (s : State) : Host.Outcome State Fault Refusal :=
  complete .next (s.setReg x (s.reg x &&& s.reg y))

/-- `8XY3`: VF is not reset (R168). -/
def execXorReg (x y : RegIx) (s : State) : Host.Outcome State Fault Refusal :=
  complete .next (s.setReg x (s.reg x ^^^ s.reg y))

/-- `8XY4`: VF is the carry (R169). -/
def execAddReg (x y : RegIx) (s : State) : Host.Outcome State Fault Refusal :=
  complete .next (s.setRegFlag x (addBytes (s.reg x) (s.reg y)) (carryFlag (s.reg x) (s.reg y)))

/-- `8XY5`: VF is 1 on underflow of `VX - VY` (R170). -/
def execSubReg (x y : RegIx) (s : State) : Host.Outcome State Fault Refusal :=
  complete .next (s.setRegFlag x (subBytes (s.reg x) (s.reg y)) (underflowFlag (s.reg x) (s.reg y)))

/-- `8XY6`: Y is ignored (R171, R172). -/
def execShrReg (x _y : RegIx) (s : State) : Host.Outcome State Fault Refusal :=
  complete .next (s.setRegFlag x (shrByte (s.reg x)) (shrFlag shrVf (s.reg x)))

/-- `8XY7`: VF is 1 on underflow of `VY - VX` (R173). -/
def execSubnReg (x y : RegIx) (s : State) : Host.Outcome State Fault Refusal :=
  complete .next (s.setRegFlag x (subBytes (s.reg y) (s.reg x)) (underflowFlag (s.reg y) (s.reg x)))

/-- `8XYE`: Y is ignored (R171, R174). -/
def execShlReg (x _y : RegIx) (s : State) : Host.Outcome State Fault Refusal :=
  complete .next (s.setRegFlag x (shlByte (s.reg x)) (shlFlag (s.reg x)))

end Sys2Proof.Machine
end

