-- ==== Sys2Proof/Machine/Cycle.lean ====
section
/-! DEFINITION. Fetch, decode, execute and advance (40_cycle.md R110 to R118). -/

namespace Sys2Proof.Machine

/-- The 16-bit word whose first byte is at `a`, big-endian (20_memory.md R51). -/
def State.wordAt (s : State) (a : Nat) : Word := joinBytes (s.mem.read a) (s.mem.read (a + 1))

/-- A fetch at `pc` is in range: `pc + 1 < 4096` (R111, 90_conflicts.md C1). -/
def fetchable (pc : Word) : Bool := decide (pc.toNat + 1 < Config.memSize)

/-- The opcode at `pc`, or none where the fetch faults (R111). It reads memory as it stands at the start of the step (R67). -/
def fetch (s : State) : Option Word := if fetchable s.pc then some (s.wordAt s.pc.toNat) else none

/-- An opcode outside the table: "only the default program-counter advance occurs" (R117). -/
def execUnsupported (_op : Word) (s : State) : Host.Outcome State Fault Refusal := complete .next s

/-- Execute what the decoder answered (R112, R113). -/
def execDecoded (d : Decoded) (s : State) : Host.Outcome State Fault Refusal :=
  match d with
  | .instr i => exec i s
  | .unsupported op => execUnsupported op s

/-- One instruction of a state with no fault (R110); the fetch fault comes before every other (R270). -/
def cycle (s : State) : Host.Outcome State Fault Refusal :=
  match fetch s with
  | none => raise (.fetchFault s.pc) s
  | some op => execDecoded (decode op) s

/-! ## What a completed step reports (R118) -/

/-- The status of a completed step. -/
inductive Status where
  | ok
  | unsupported (op : Word)
  deriving DecidableEq, Repr

/-- The trace record: the address fetched from, the opcode and the decoded instruction. -/
structure Trace where
  pc : Word
  op : Word
  ins : Decoded
  deriving DecidableEq, Repr

/-- `Ok` for an instruction, `Unsupported(op)` for an opcode outside the table. -/
def statusOf : Decoded → Status
  | .instr _ => .ok
  | .unsupported op => .unsupported op

end Sys2Proof.Machine
end

