-- ==== Sys2Proof/Machine/Step.lean ====
section
/-! DEFINITION. `step()` (40_cycle.md R110, R114), and placing an instruction where it fetches next. -/

namespace Sys2Proof.Machine

/-- One step. A state whose fault element is set has none: it is refused by name (R114; log 2). -/
def step (s : State) : Host.Outcome State Fault Refusal :=
  match s.fault with
  | some r => .refused (.stepAfterFault r)
  | none => cycle s

/-- `s` with the table word `w` stored, big-endian, where the next step fetches. A `pc` that no fetch can use is put at 0x200,
and a fault element, which no step gets past, is taken away (log 4). -/
def State.withFetchWord (s : State) (nbits w : Nat) : State :=
  let op : Word := BitVec.ofNat 16 (w % 2 ^ nbits)
  let base : Word := if fetchable s.pc then s.pc else Config.pcReset
  ((s.setMem (s.mem.writeBytes base.toNat [highByte op, lowByte op])).setPc base).setFault none

end Sys2Proof.Machine
end

