-- ==== Sys2Proof/Machine/Assembly.lean ====
section
/-! DEFINITION. The assembler form of 30_encoding.md R89 and R90 as data: a mnemonic and its operands. It is an aid to reading
(R89); nothing in the machine reads it (log 24). -/

namespace Sys2Proof.Machine

/-- The operands R89 writes. -/
inductive AsmOperand where
  /-- `V0` to `VF`. -/
  | reg (x : RegIx)
  /-- A byte NN. -/
  | byte (nn : Byte)
  /-- An address NNN. -/
  | address (nnn : Word)
  /-- A nibble N. -/
  | nibble (n : Nat)
  /-- `I`. -/
  | index
  /-- `B`. -/
  | decimal
  /-- `[I]`. -/
  | atIndex
  /-- The raw word of `DW`. -/
  | word (op : Word)
  deriving DecidableEq, Repr

/-- The mnemonic column of R84. -/
def assembly : Instr → String × List AsmOperand
  | .cls => ("CLS", [])
  | .ret => ("RET", [])
  | .jp nnn => ("JP", [.address nnn])
  | .call nnn => ("CALL", [.address nnn])
  | .seImm x nn => ("SE", [.reg x, .byte nn])
  | .sneImm x nn => ("SNE", [.reg x, .byte nn])
  | .seReg x y => ("SE", [.reg x, .reg y])
  | .ldImm x nn => ("LD", [.reg x, .byte nn])
  | .addImm x nn => ("ADD", [.reg x, .byte nn])
  | .ldReg x y => ("LD", [.reg x, .reg y])
  | .orReg x y => ("OR", [.reg x, .reg y])
  | .andReg x y => ("AND", [.reg x, .reg y])
  | .xorReg x y => ("XOR", [.reg x, .reg y])
  | .addReg x y => ("ADD", [.reg x, .reg y])
  | .subReg x y => ("SUB", [.reg x, .reg y])
  | .shrReg x y => ("SHR", [.reg x, .reg y])
  | .subnReg x y => ("SUBN", [.reg x, .reg y])
  | .shlReg x y => ("SHL", [.reg x, .reg y])
  | .sneReg x y => ("SNE", [.reg x, .reg y])
  | .ldIndex nnn => ("LD", [.index, .address nnn])
  | .drw x y n => ("DRW", [.reg x, .reg y, .nibble n])
  | .addIndex x => ("ADD", [.index, .reg x])
  | .ldBcd x => ("LD", [.decimal, .reg x])
  | .storeRegs x => ("LD", [.atIndex, .reg x])
  | .loadRegs x => ("LD", [.reg x, .atIndex])

/-- A word that is not an instruction is written `DW`. -/
def disassemble (op : Word) : String × List AsmOperand :=
  match decode op with
  | .instr i => assembly i
  | .unsupported w => ("DW", [.word w])

end Sys2Proof.Machine
end

