-- ==== Sys2Proof/Machine/Transactions.lean ====
section
/-! DEFINITION. The host-facing operations (00_scope.md R9, R10): `new`, `load`, `step`, `tick_timers`, the read ports and the
outputs of a step. -/

namespace Sys2Proof.Machine

/-- `load(b)`: `M[0x200 + k] <- b[k]`; an image longer than 3584 bytes faults before any byte is copied (20_memory.md R60, R61).
On a state whose fault element is set it is not modelled (R62; log 2). -/
def load (image : List Byte) (s : State) : Host.Outcome State Fault Refusal :=
  match s.fault with
  | some r => .refused (.loadAfterFault r)
  | none =>
    if image.length > Config.maxImage then raise (.loadFault image.length) s
    else .next (s.setMem (s.mem.writeBytes Config.progBase image))

/-- A timer that is not zero goes down by 1 (60_exceptions.md R275). -/
def decrementTimer (t : Byte) : Byte := if t = 0 then 0 else t - 1

/-- `tick_timers()`: never faults and changes nothing but the timers (R275; log 20). -/
def tickTimers (s : State) : State := s.setTimers (decrementTimer s.dt) (decrementTimer s.st)

/-- The transactions of R9. They and the steps are totally ordered (R69). -/
inductive Transaction where
  | new
  | load (image : List Byte)
  | step
  | tickTimers
  deriving DecidableEq, Repr

/-- One transaction, one atomic state transition (R7). -/
def transact (t : Transaction) (s : State) : Host.Outcome State Fault Refusal :=
  match t with
  | .new => .next State.reset
  | .load image => Sys2Proof.Machine.load image s
  | .step => Sys2Proof.Machine.step s
  | .tickTimers => .next (Sys2Proof.Machine.tickTimers s)

/-- What the host reads between steps (R10). -/
structure HostView where
  framebuffer : Framebuffer
  registers : Vector Byte 16
  delayTimer : Byte
  soundTimer : Byte
  deriving DecidableEq, Repr

/-- The read ports: a copy (20_memory.md R69). -/
def State.hostView (s : State) : HostView := ⟨s.fb, s.v, s.dt, s.st⟩

/-- The status and trace record of a step that completes; none for a step that faults or is refused (40_cycle.md R118). -/
def stepOutput (s : State) : Option (Status × Trace) :=
  match step s, fetch s with
  | .next _, some op => some (statusOf (decode op), ⟨s.pc, op, decode op⟩)
  | _, _ => none

end Sys2Proof.Machine
end

