-- ==== Sys2Proof/Safety.lean ====
section
/-! DEFINITION. What claims about the machine are said in: the invariant, safe runs, reachable states, and what one state shares
with another. -/

namespace Sys2Proof.Machine

/-! ## The invariant (10_state.md R27, R38) -/

/-- R38, as far as the types do not say it: memory is in its canonical form, `pc` is in [0, 0x1002], and every stack entry is an
address a call can have stood at, at most 0xFFE. -/
def State.Inv (s : State) : Prop :=
  s.mem.wf = true ∧ s.pc.toNat ≤ 0x1002 ∧ ∀ k : Fin 16, s.stack[k.val].toNat ≤ 0xFFE

/-! ## Runs (70_reset_and_hazards.md R299) -/

/-- `k` steps complete with no fault and end in `t`. -/
def RunsTo : Nat → State → State → Prop
  | 0, s, t => s = t
  | k + 1, s, t => ∃ m, step s = .next m ∧ RunsTo k m t

/-- The states the host can bring about with the transactions of R9, faulted states among them. -/
inductive Reachable : State → Prop where
  | new : Reachable State.reset
  | completes {s t : State} {tr : Transaction} : Reachable s → transact tr s = .next t → Reachable t
  | faults {s t : State} {tr : Transaction} {r : FaultRecord} :
      Reachable s → transact tr s = .fault (.raised r t) → Reachable t

/-! ## Frames: what two states share -/

/-- Every register outside `p` is the same. -/
def SameRegsBut (p : RegIx → Prop) (s t : State) : Prop := ∀ r : RegIx, ¬ p r → t.reg r = s.reg r

/-- Every byte of memory reads the same. -/
def SameMem (s t : State) : Prop := ∀ a : Nat, t.mem.read a = s.mem.read a

/-- Every byte outside the `n` bytes at `base` reads the same. -/
def SameMemBut (base n : Nat) (s t : State) : Prop :=
  ∀ a : Nat, ¬(base ≤ a ∧ a < base + n) → t.mem.read a = s.mem.read a

/-- The stack slots and `SP` are the same. -/
def SameStack (s t : State) : Prop := t.stack = s.stack ∧ t.sp = s.sp

/-- Every pixel is the same. -/
def SameDisplay (s t : State) : Prop := ∀ (x : Fin 64) (y : Fin 32), t.fb.pixel x y = s.fb.pixel x y

/-- The timers and the fault element are the same: no instruction that completes writes them. -/
def SameTimersFault (s t : State) : Prop := t.dt = s.dt ∧ t.st = s.st ∧ t.fault = s.fault

/-- Only registers in `p` and `pc` may differ. -/
def OnlyRegs (p : RegIx → Prop) (s t : State) : Prop :=
  SameRegsBut p s t ∧ t.i = s.i ∧ SameStack s t ∧ SameMem s t ∧ SameDisplay s t ∧ SameTimersFault s t

/-- Only `pc` may differ. -/
def OnlyPc (s t : State) : Prop := OnlyRegs (fun _ => False) s t

/-! ## What memory holds after a store (20_memory.md R67) -/

/-- The byte at `a` after FX55 has stored V0 to VX at `I`. -/
def State.byteAfterRegStore (s : State) (x : RegIx) (a : Nat) : Byte :=
  if h : s.i.toNat ≤ a ∧ a ≤ s.i.toNat + x.val then s.reg ⟨a - s.i.toNat, by omega⟩ else s.mem.read a

/-- The byte at `a` after FX33 has stored the digits of VX at `I`. -/
def State.byteAfterDigitStore (s : State) (x : RegIx) (a : Nat) : Byte :=
  if a = s.i.toNat then BitVec.ofNat 8 ((s.reg x).toNat / 100)
  else if a = s.i.toNat + 1 then BitVec.ofNat 8 ((s.reg x).toNat / 10 % 10)
  else if a = s.i.toNat + 2 then BitVec.ofNat 8 ((s.reg x).toNat % 10)
  else s.mem.read a

/-! ## Comparing outcomes -/

/-- The outcome with `f` applied to the state it carries. -/
def mapOutcome (f : State → State) : Host.Outcome State Fault Refusal → Host.Outcome State Fault Refusal
  | .next t => .next (f t)
  | .fault (.raised r t) => .fault (.raised r (f t))
  | .refused r => .refused r

/-- Two outcomes of the same kind, with the same record or reason, whose states are related by `R`. -/
def RelatedOutcomes (R : State → State → Prop) :
    Host.Outcome State Fault Refusal → Host.Outcome State Fault Refusal → Prop
  | .next t, .next t' => R t t'
  | .fault (.raised r t), .fault (.raised r' t') => r = r' ∧ R t t'
  | .refused r, .refused r' => r = r'
  | _, _ => False

/-- Two states that differ at most in stack slots at or above `SP`, the slots R33 calls unreachable. -/
def SameButStaleSlots (s s' : State) : Prop :=
  s' = s.setStack s'.stack s.sp ∧ ∀ k : Fin 16, k.val < s.sp.val → s'.stack[k.val] = s.stack[k.val]

end Sys2Proof.Machine
end

