-- ==== Sys2Proof/Certificates/Slice0/Obligations.lean ====
section
/-! DEFINITION. The statements for the provers. Each docstring names the rule of spec/ it formalises; where a clause rests on a
decision or an inference that spec/ marks as its own, the docstring names it, and the statement's basis is 'derived'. -/

open Sys2Proof Sys2Proof.Machine

/-! ## Encoding -/

/-- Decoder and encoder agree in both directions, for every opcode and every instruction (30_encoding.md sections 1 to 3). -/
def Obligations.DecodeIffWellFormedAndEncodes : Prop :=
  ∀ (op : Word) (i : Instr), decode op = .instr i ↔ (i.wellFormed = true ∧ encode i = op)

/-- The decoder answers the row that `op & mask == match` selects, no two rows match one opcode, and an opcode no row selects is
`Unsupported(op)` (30_encoding.md section 3). -/
def Obligations.TableMatchMaskSelectsDecodedRow : Prop :=
  (∀ (op : Word) (i : Instr), decode op = .instr i → selects i op = true) ∧
  (∀ (op : Word) (i j : Instr), selects i op = true → selects j op = true → tableRow i = tableRow j) ∧
  (∀ (op : Word) (i : Instr), selects i op = true → ∃ j, decode op = .instr j ∧ tableRow j = tableRow i) ∧
  (∀ op : Word, (∀ i : Instr, selects i op = false) → decode op = .unsupported op)

/-- The unsupported opcodes are exactly the ranges 30_encoding.md lists; the lines 5XYn, 8XYn and 9XYn are the spec's decision
D18 (log 5). -/
def Obligations.UnsupportedSpaceIsExactlyTheListedRanges : Prop :=
  ∀ op : Word,
    (decode op = .unsupported op ↔
      ((op.toNat < 0x1000 ∧ op.toNat ≠ 0x00E0 ∧ op.toNat ≠ 0x00EE) ∨
       (op.toNat / 0x1000 = 0x5 ∧ op.toNat % 0x10 ≠ 0) ∨
       (op.toNat / 0x1000 = 0x8 ∧ op.toNat % 0x10 ∈ [0x8, 0x9, 0xA, 0xB, 0xC, 0xD, 0xF]) ∨
       (op.toNat / 0x1000 = 0x9 ∧ op.toNat % 0x10 ≠ 0) ∨
       op.toNat / 0x1000 ∈ [0xB, 0xC, 0xE] ∨
       (op.toNat / 0x1000 = 0xF ∧ op.toNat % 0x100 ∉ [0x1E, 0x33, 0x55, 0x65]))) ∧
    (∀ w : Word, decode op = .unsupported w → w = op)

/-- Words the spec prints decode to what it prints beside them (95_test_vectors.md and the examples of the instruction rules). That
0x5121, whose last nibble is not the pattern's 0, is no instruction is the spec's decision D18 (log 5). -/
def Obligations.PrintedWordsDecode : Prop :=
  decode 0x00E0 = .instr .cls ∧ decode 0x00EE = .instr .ret ∧ decode 0x1ABC = .instr (.jp 0xABC) ∧
  decode 0x2210 = .instr (.call 0x210) ∧ decode 0x3342 = .instr (.seImm 3 0x42) ∧
  decode 0x5120 = .instr (.seReg 1 2) ∧ decode 0x6A7B = .instr (.ldImm 0xA 0x7B) ∧
  decode 0x8127 = .instr (.subnReg 1 2) ∧ decode 0xA300 = .instr (.ldIndex 0x300) ∧
  decode 0xD121 = .instr (.drw 1 2 1) ∧ decode 0xF21E = .instr (.addIndex 2) ∧
  decode 0xF265 = .instr (.loadRegs 2) ∧ decode 0x5121 = .unsupported 0x5121

/-! ## The instruction cycle -/

/-- A step of a state with no fault reads `M[pc] ++ M[pc+1]` and, where that decodes to an instruction, runs it: the meaning
`exec` moves the program counter itself, so the step adds nothing (40_cycle.md section 1). -/
def Obligations.StepRunsTheDecodedInstruction : Prop :=
  ∀ (s : State) (op : Word) (i : Instr), s.fault = none → s.pc.toNat + 1 < 4096 →
    op.toNat = (s.mem.read s.pc.toNat).toNat * 256 + (s.mem.read (s.pc.toNat + 1)).toNat →
    decode op = .instr i → step s = exec i s

/-- R117: an opcode outside the table completes with nothing changed but `pc`, which goes up by 2, and the status is
`Unsupported(op)`. -/
def Obligations.UnsupportedOpcodeOnlyAdvancesPc : Prop :=
  ∀ (s : State) (op : Word), s.fault = none → fetch s = some op → decode op = .unsupported op →
    ∃ t, step s = .next t ∧ t.pc = s.pc + 2 ∧ OnlyPc s t ∧
      (stepOutput s).map Prod.fst = some (.unsupported op)

/-- A fetch at `pc >= 0xFFF` faults before anything else. That the state left differs in the fault element only is the spec's
decision D3 (log 1). -/
def Obligations.FetchBeyondMemoryFaults : Prop :=
  ∀ s : State, s.fault = none → 4096 ≤ s.pc.toNat + 1 →
    step s = .fault (.raised (.fetchFault s.pc) (s.setFault (some (.fetchFault s.pc))))

/-- A state whose fault element is set has no step, and a `load` on it is not modelled: both are refused, with the record (the
spec's decisions D3 and D16; log 2). -/
def Obligations.FaultedStateHasNoStepAndNoLoad : Prop :=
  ∀ (s : State) (r : FaultRecord), s.fault = some r →
    step s = .refused (.stepAfterFault r) ∧ ∀ image, load image s = .refused (.loadAfterFault r)

/-- Without a fault in the fault element, no opcode is refused: every step completes or faults, and no instruction is refused
in any state (30_encoding.md section 4, 40_cycle.md section 1). -/
def Obligations.NothingIsRefusedBeforeAFault : Prop :=
  (∀ (s : State) (r : Refusal), s.fault = none → step s ≠ .refused r) ∧
  (∀ (i : Instr) (s : State) (r : Refusal), exec i s ≠ .refused r)

/-- Where the program counter goes, for every step that completes (40_cycle.md section 2, a taken skip's `+ 4` included). The
return's `+ 2` is the spec's decision D7, as 90_conflicts.md C2 resolves it (log 16). -/
def Obligations.ProgramCounterAfterEveryStep : Prop :=
  ∀ s t : State, step s = .next t → ∃ op, fetch s = some op ∧
    match decode op with
    | .instr (.jp nnn) => t.pc = nnn
    | .instr (.call nnn) => t.pc = nnn
    | .instr .ret => ∃ k : Fin 16, k.val + 1 = s.sp.val ∧ t.pc = s.stack[k.val] + 2
    | .instr (.seImm x nn) => t.pc = if s.reg x = nn then s.pc + 4 else s.pc + 2
    | .instr (.sneImm x nn) => t.pc = if s.reg x ≠ nn then s.pc + 4 else s.pc + 2
    | .instr (.seReg x y) => t.pc = if s.reg x = s.reg y then s.pc + 4 else s.pc + 2
    | .instr (.sneReg x y) => t.pc = if s.reg x ≠ s.reg y then s.pc + 4 else s.pc + 2
    | _ => t.pc = s.pc + 2

/-- A step that completes returns a status and a trace record of what was fetched and decoded: `Ok` for an instruction,
`Unsupported(op)` for an opcode outside the table. A step that does not complete returns none. The form of these outputs is the
spec's decision D12 (log 22). -/
def Obligations.CompletedStepsReportStatusAndTrace : Prop :=
  (∀ s t : State, step s = .next t → ∃ op, fetch s = some op ∧
    ((∃ i, decode op = .instr i ∧ stepOutput s = some (.ok, ⟨s.pc, op, .instr i⟩)) ∨
     (decode op = .unsupported op ∧ stepOutput s = some (.unsupported op, ⟨s.pc, op, .unsupported op⟩)))) ∧
  (∀ s : State, (∀ t, step s ≠ .next t) → stepOutput s = none)

/-! ## Control flow -/

/-- R132: 1NNN sets `pc` to exactly NNN and changes nothing else. -/
def Obligations.JumpSetsPcToExactlyNNN : Prop :=
  ∀ (s : State) (nnn : Word),
    (nnn.toNat < 0x1000 → decode (BitVec.ofNat 16 (0x1000 + nnn.toNat)) = .instr (.jp nnn)) ∧
    ∃ t, exec (.jp nnn) s = .next t ∧ t.pc = nnn ∧ OnlyPc s t

/-- A jump to its own address leaves the whole state unchanged, so it is a fixed point of the step: an inference 41_control_flow.md
marks as its own ([derived]). -/
def Obligations.SelfJumpIsAFixedPointOfStep : Prop :=
  ∀ s : State, s.fault = none → s.pc.toNat < 0xFFF → s.wordAt s.pc.toNat = BitVec.ofNat 16 (0x1000 + s.pc.toNat) →
    step s = .next s

/-- 2NNN on a stack with room writes its own address to `S[SP]`, raises SP by 1 and continues at NNN; nothing else changes
(41_control_flow.md section 2). -/
def Obligations.CallPushesItsOwnAddress : Prop :=
  ∀ (s : State) (nnn : Word) (k : Fin 16), s.sp.val = k.val →
    ∃ t, exec (.call nnn) s = .next t ∧ t.pc = nnn ∧ t.sp.val = s.sp.val + 1 ∧ t.stack[k.val] = s.pc ∧
      (∀ j : Fin 16, j ≠ k → t.stack[j.val] = s.stack[j.val]) ∧
      SameRegsBut (fun _ => False) s t ∧ t.i = s.i ∧ SameMem s t ∧ SameDisplay s t ∧ SameTimersFault s t

/-- 00EE on a stack that is not empty lowers SP by 1 and continues 2 past the popped address; every slot keeps its value. The
`+ 2` is the spec's decision D7 and the kept slot its decision D11 (log 16). -/
def Obligations.ReturnContinuesAfterTheCall : Prop :=
  ∀ (s : State) (k : Fin 16), s.sp.val = k.val + 1 →
    ∃ t, exec .ret s = .next t ∧ t.pc = s.stack[k.val] + 2 ∧ t.sp.val = k.val ∧ t.stack = s.stack ∧
      SameRegsBut (fun _ => False) s t ∧ t.i = s.i ∧ SameMem s t ∧ SameDisplay s t ∧ SameTimersFault s t

/-- A call on a full stack and a return on an empty one fault with the records of 60_exceptions.md section 1. That only the
fault element changes is the spec's decision D3 (log 1). -/
def Obligations.FullAndEmptyStackFault : Prop :=
  (∀ (s : State) (nnn : Word), s.sp.val = 16 →
    exec (.call nnn) s =
      .fault (.raised (.stackOverflow s.pc nnn) (s.setFault (some (.stackOverflow s.pc nnn))))) ∧
  (∀ s : State, s.sp.val = 0 →
    exec .ret s = .fault (.raised (.stackUnderflow s.pc) (s.setFault (some (.stackUnderflow s.pc)))))

/-- R133: after a call at c and any code that leaves SP and the slots below it as the call left them, the return continues at
c + 2 and SP is at its value before the call. With the code in between empty this is `2NNN` then `00EE`; with calls and returns
in between it is the nested case, last in first out. What the slots hold is as 90_conflicts.md C2 resolves it (log 16). -/
def Obligations.CallThenReturnRoundTrip : Prop :=
  ∀ (s t m : State) (nnn : Word), exec (.call nnn) s = .next t → m.sp = t.sp →
    (∀ k : Fin 16, k.val < t.sp.val → m.stack[k.val] = t.stack[k.val]) →
    ∃ u, exec .ret m = .next u ∧ u.pc = s.pc + 2 ∧ u.sp = s.sp ∧
      ∀ k : Fin 16, k.val < s.sp.val → u.stack[k.val] = s.stack[k.val]

/-- R136, R137: the skips that compare a register with a byte. -/
def Obligations.ImmediateSkipsCompareAndAdvance : Prop :=
  ∀ (s : State) (x : RegIx) (nn : Byte),
    decode (BitVec.ofNat 16 (0x3000 + x.val * 0x100 + nn.toNat)) = .instr (.seImm x nn) ∧
    decode (BitVec.ofNat 16 (0x4000 + x.val * 0x100 + nn.toNat)) = .instr (.sneImm x nn) ∧
    (∃ t, exec (.seImm x nn) s = .next t ∧ OnlyPc s t ∧
      t.pc = if (s.reg x).toNat = nn.toNat then s.pc + 4 else s.pc + 2) ∧
    (∃ t, exec (.sneImm x nn) s = .next t ∧ OnlyPc s t ∧
      t.pc = if (s.reg x).toNat = nn.toNat then s.pc + 2 else s.pc + 4)

/-- The skips that compare two registers (41_control_flow.md section 3). That a last nibble other than 0 is no instruction is the
spec's decision D18 (log 5). -/
def Obligations.RegisterSkipsCompareAndAdvance : Prop :=
  ∀ (s : State) (x y : RegIx),
    decode (BitVec.ofNat 16 (0x5000 + x.val * 0x100 + y.val * 0x10)) = .instr (.seReg x y) ∧
    decode (BitVec.ofNat 16 (0x9000 + x.val * 0x100 + y.val * 0x10)) = .instr (.sneReg x y) ∧
    (∀ n : Fin 16, n.val ≠ 0 →
      decode (BitVec.ofNat 16 (0x5000 + x.val * 0x100 + y.val * 0x10 + n.val)) =
        .unsupported (BitVec.ofNat 16 (0x5000 + x.val * 0x100 + y.val * 0x10 + n.val)) ∧
      decode (BitVec.ofNat 16 (0x9000 + x.val * 0x100 + y.val * 0x10 + n.val)) =
        .unsupported (BitVec.ofNat 16 (0x9000 + x.val * 0x100 + y.val * 0x10 + n.val))) ∧
    (∃ t, exec (.seReg x y) s = .next t ∧ OnlyPc s t ∧
      t.pc = if (s.reg x).toNat = (s.reg y).toNat then s.pc + 4 else s.pc + 2) ∧
    (∃ t, exec (.sneReg x y) s = .next t ∧ OnlyPc s t ∧
      t.pc = if (s.reg x).toNat = (s.reg y).toNat then s.pc + 2 else s.pc + 4)

/-! ## Registers and arithmetic -/

/-- R163, R164: load and add immediate. The sum wraps and VF is not written as a flag; VX may be VF. -/
def Obligations.LoadAndAddImmediateWriteVx : Prop :=
  ∀ (s : State) (x : RegIx) (nn : Byte),
    decode (BitVec.ofNat 16 (0x6000 + x.val * 0x100 + nn.toNat)) = .instr (.ldImm x nn) ∧
    decode (BitVec.ofNat 16 (0x7000 + x.val * 0x100 + nn.toNat)) = .instr (.addImm x nn) ∧
    (∃ t, exec (.ldImm x nn) s = .next t ∧ t.reg x = nn ∧ t.pc = s.pc + 2 ∧ OnlyRegs (· = x) s t) ∧
    (∃ t, exec (.addImm x nn) s = .next t ∧ (t.reg x).toNat = ((s.reg x).toNat + nn.toNat) % 256 ∧
      t.pc = s.pc + 2 ∧ OnlyRegs (· = x) s t)

/-- R165 to R168: copy, or, and, exclusive or. VF is not reset. -/
def Obligations.CopyAndLogicWriteVx : Prop :=
  ∀ (s : State) (x y : RegIx),
    decode (BitVec.ofNat 16 (0x8000 + x.val * 0x100 + y.val * 0x10)) = .instr (.ldReg x y) ∧
    decode (BitVec.ofNat 16 (0x8001 + x.val * 0x100 + y.val * 0x10)) = .instr (.orReg x y) ∧
    decode (BitVec.ofNat 16 (0x8002 + x.val * 0x100 + y.val * 0x10)) = .instr (.andReg x y) ∧
    decode (BitVec.ofNat 16 (0x8003 + x.val * 0x100 + y.val * 0x10)) = .instr (.xorReg x y) ∧
    (∃ t, exec (.ldReg x y) s = .next t ∧ t.reg x = s.reg y ∧ t.pc = s.pc + 2 ∧ OnlyRegs (· = x) s t) ∧
    (∃ t, exec (.orReg x y) s = .next t ∧ t.reg x = s.reg x ||| s.reg y ∧ t.pc = s.pc + 2 ∧ OnlyRegs (· = x) s t) ∧
    (∃ t, exec (.andReg x y) s = .next t ∧ t.reg x = s.reg x &&& s.reg y ∧ t.pc = s.pc + 2 ∧ OnlyRegs (· = x) s t) ∧
    (∃ t, exec (.xorReg x y) s = .next t ∧ t.reg x = s.reg x ^^^ s.reg y ∧ t.pc = s.pc + 2 ∧ OnlyRegs (· = x) s t)

/-- 8XY4: the sum mod 256 goes to VX and the carry to VF. When X is F the flag wins, which is the spec's decision D8 (log 14). -/
def Obligations.AddSetsSumAndCarry : Prop :=
  ∀ (s : State) (x y : RegIx),
    ∃ t, exec (.addReg x y) s = .next t ∧ t.pc = s.pc + 2 ∧ OnlyRegs (fun r => r = x ∨ r = 15) s t ∧
      (x ≠ 15 → (t.reg x).toNat = ((s.reg x).toNat + (s.reg y).toNat) % 256) ∧
      t.reg 15 = if (s.reg x).toNat + (s.reg y).toNat > 255 then 1 else 0

/-- 8XY5 and 8XY7: the difference mod 256 goes to VX and 1 on underflow to VF. When X is F the flag wins, which is the spec's
decision D8 (log 14). -/
def Obligations.SubtractionsSetDifferenceAndBorrow : Prop :=
  ∀ (s : State) (x y : RegIx),
    (∃ t, exec (.subReg x y) s = .next t ∧ t.pc = s.pc + 2 ∧ OnlyRegs (fun r => r = x ∨ r = 15) s t ∧
      (x ≠ 15 → t.reg x = s.reg x - s.reg y) ∧
      t.reg 15 = if (s.reg x).toNat < (s.reg y).toNat then 1 else 0) ∧
    (∃ t, exec (.subnReg x y) s = .next t ∧ t.pc = s.pc + 2 ∧ OnlyRegs (fun r => r = x ∨ r = 15) s t ∧
      (x ≠ 15 → t.reg x = s.reg y - s.reg x) ∧
      t.reg 15 = if (s.reg y).toNat < (s.reg x).toNat then 1 else 0)

/-- 8XY6 and 8XYE: the shift goes to VX; VF is 0 after the right shift (parameter SHR_VF = zero, log 12) and the old bit 7 after
the left shift. Y is not read. When X is F the flag wins, which is the spec's decision D8 (log 14). -/
def Obligations.ShiftsSetResultAndFlag : Prop :=
  ∀ (s : State) (x y : RegIx),
    (∃ t, exec (.shrReg x y) s = .next t ∧ t.pc = s.pc + 2 ∧ OnlyRegs (fun r => r = x ∨ r = 15) s t ∧
      (x ≠ 15 → (t.reg x).toNat = (s.reg x).toNat / 2) ∧ t.reg 15 = 0) ∧
    (∃ t, exec (.shlReg x y) s = .next t ∧ t.pc = s.pc + 2 ∧ OnlyRegs (fun r => r = x ∨ r = 15) s t ∧
      (x ≠ 15 → (t.reg x).toNat = (s.reg x).toNat * 2 % 256) ∧
      t.reg 15 = if 128 ≤ (s.reg x).toNat then 1 else 0)

/-! ## Index register and memory -/

/-- R201: ANNN sets I to NNN and changes nothing else but `pc`. -/
def Obligations.LoadIndexSetsI : Prop :=
  ∀ (s : State) (nnn : Word),
    (nnn.toNat < 0x1000 → decode (BitVec.ofNat 16 (0xA000 + nnn.toNat)) = .instr (.ldIndex nnn)) ∧
    ∃ t, exec (.ldIndex nnn) s = .next t ∧ t.i = nnn ∧ t.pc = s.pc + 2 ∧
      SameRegsBut (fun _ => False) s t ∧ SameStack s t ∧ SameMem s t ∧ SameDisplay s t ∧ SameTimersFault s t

/-- FX1E with a sum of at most 0xFFFF: I is the exact sum, VF is not written and nothing else changes but `pc`. -/
def Obligations.AddToIndexIsExact : Prop :=
  ∀ (s : State) (x : RegIx), s.i.toNat + (s.reg x).toNat ≤ 0xFFFF →
    ∃ t, exec (.addIndex x) s = .next t ∧ t.i.toNat = s.i.toNat + (s.reg x).toNat ∧ t.pc = s.pc + 2 ∧
      SameRegsBut (fun _ => False) s t ∧ SameStack s t ∧ SameMem s t ∧ SameDisplay s t ∧ SameTimersFault s t

/-- FX1E past 0xFFFF faults, because I_OVERFLOW is `fault` for this hardware: the spec's decisions D6 and D3 (logs 11 and 1). -/
def Obligations.AddToIndexPastFFFFFaults : Prop :=
  ∀ (s : State) (x : RegIx), 0xFFFF < s.i.toNat + (s.reg x).toNat →
    exec (.addIndex x) s = .fault (.raised (.indexOverflow s.pc s.i (s.reg x))
      (s.setFault (some (.indexOverflow s.pc s.i (s.reg x)))))

/-- FX33 in range stores the hundreds, tens and units digit at `I`, `I+1`, `I+2`, leaves every other byte and I alone. The bound
is the spec's decision D4 and the digits' form is from general knowledge (logs 3 and 17). Memory is in its canonical form, the
part of the invariant that StepKeepsTheInvariant states. -/
def Obligations.DecimalStoreWritesThreeDigits : Prop :=
  ∀ (s : State) (x : RegIx), s.mem.wf = true → s.dataAddr 0 + 3 ≤ 4096 →
    ∃ t, exec (.ldBcd x) s = .next t ∧ t.pc = s.pc + 2 ∧ t.i = s.i ∧
      (t.mem.read (s.dataAddr 0)).toNat = (s.reg x).toNat / 100 ∧
      (t.mem.read (s.dataAddr 1)).toNat = (s.reg x).toNat / 10 % 10 ∧
      (t.mem.read (s.dataAddr 2)).toNat = (s.reg x).toNat % 10 ∧
      SameMemBut (s.dataAddr 0) 3 s t ∧
      SameRegsBut (fun _ => False) s t ∧ SameStack s t ∧ SameDisplay s t ∧ SameTimersFault s t

/-- FX55 in range stores V0 to VX at `I` to `I+X`, leaves every other byte alone and advances I by X + 1. The bound is the spec's
decision D4 (log 3). -/
def Obligations.RegisterStoreWritesTheBlock : Prop :=
  ∀ (s : State) (x : RegIx), s.mem.wf = true → s.dataAddr 0 + (x.val + 1) ≤ 4096 →
    ∃ t, exec (.storeRegs x) s = .next t ∧ t.pc = s.pc + 2 ∧ t.i.toNat = s.i.toNat + (x.val + 1) ∧
      (∀ k : RegIx, k.val ≤ x.val → t.mem.read (s.dataAddr k.val) = s.reg k) ∧
      SameMemBut (s.dataAddr 0) (x.val + 1) s t ∧
      SameRegsBut (fun _ => False) s t ∧ SameStack s t ∧ SameDisplay s t ∧ SameTimersFault s t

/-- FX65 in range loads V0 to VX from `I` to `I+X`, leaves the registers above X and all of memory alone and advances I by X + 1.
The bound is the spec's decision D4 (log 3). -/
def Obligations.RegisterLoadReadsTheBlock : Prop :=
  ∀ (s : State) (x : RegIx), s.dataAddr 0 + (x.val + 1) ≤ 4096 →
    ∃ t, exec (.loadRegs x) s = .next t ∧ t.pc = s.pc + 2 ∧ t.i.toNat = s.i.toNat + (x.val + 1) ∧
      (∀ k : RegIx, k.val ≤ x.val → t.reg k = s.mem.read (s.dataAddr k.val)) ∧
      SameRegsBut (fun k => k.val ≤ x.val) s t ∧ SameMem s t ∧ SameStack s t ∧ SameDisplay s t ∧ SameTimersFault s t

/-- The four data accesses out of range fault with `MemoryFault(pc, op, I, n)` and change the fault element only: the spec's
decisions D4 and D3 (logs 3 and 1). For DXYN the bound counts at least one byte and the record holds N. -/
def Obligations.DataAccessPastMemoryFaults : Prop :=
  (∀ (s : State) (x : RegIx), 4096 < s.i.toNat + 3 →
    exec (.ldBcd x) s = .fault (.raised (.memoryFault s.pc (BitVec.ofNat 16 (0xF033 + x.val * 0x100)) s.i 3)
      (s.setFault (some (.memoryFault s.pc (BitVec.ofNat 16 (0xF033 + x.val * 0x100)) s.i 3))))) ∧
  (∀ (s : State) (x : RegIx), 4096 < s.i.toNat + (x.val + 1) →
    exec (.storeRegs x) s = .fault (.raised (.memoryFault s.pc (BitVec.ofNat 16 (0xF055 + x.val * 0x100)) s.i (x.val + 1))
      (s.setFault (some (.memoryFault s.pc (BitVec.ofNat 16 (0xF055 + x.val * 0x100)) s.i (x.val + 1)))))) ∧
  (∀ (s : State) (x : RegIx), 4096 < s.i.toNat + (x.val + 1) →
    exec (.loadRegs x) s = .fault (.raised (.memoryFault s.pc (BitVec.ofNat 16 (0xF065 + x.val * 0x100)) s.i (x.val + 1))
      (s.setFault (some (.memoryFault s.pc (BitVec.ofNat 16 (0xF065 + x.val * 0x100)) s.i (x.val + 1)))))) ∧
  (∀ (s : State) (x y : RegIx) (n : Nat), n ≤ 15 → 4096 < s.i.toNat + max n 1 →
    exec (.drw x y n) s =
      .fault (.raised (.memoryFault s.pc (BitVec.ofNat 16 (0xD000 + x.val * 0x100 + y.val * 0x10 + n)) s.i n)
        (s.setFault (some
          (.memoryFault s.pc (BitVec.ofNat 16 (0xD000 + x.val * 0x100 + y.val * 0x10 + n)) s.i n)))))

/-- Only FX1E, FX55 and FX65 take I above 0xFFF, and FX55 and FX65 leave it at most 0x1000: an inference 43_index_memory.md marks
as its own ([derived]). -/
def Obligations.OnlyThreeInstructionsTakeIndexAboveFFF : Prop :=
  (∀ (i : Instr) (s t : State), i.wellFormed = true → exec i s = .next t → s.i.toNat ≤ 0xFFF → 0xFFF < t.i.toNat →
    (∃ x, i = .addIndex x) ∨ (∃ x, i = .storeRegs x) ∨ (∃ x, i = .loadRegs x)) ∧
  (∀ (x : RegIx) (s t : State), exec (.storeRegs x) s = .next t ∨ exec (.loadRegs x) s = .next t → t.i.toNat ≤ 0x1000)

/-- What FX55 and FX33 store is what every later fetch reads, with nothing needed in between, whether the fetch lies inside the
stored block, across its edge or outside it (20_memory.md R67, [derived] there). `u` is any state with the memory the store left. -/
def Obligations.StoredRegistersAreFetchedNext : Prop :=
  ∀ (s t u : State) (x : RegIx), s.mem.wf = true → u.mem = t.mem → u.pc.toNat + 1 < 4096 →
    (exec (.storeRegs x) s = .next t →
      fetch u = some (joinBytes (s.byteAfterRegStore x u.pc.toNat) (s.byteAfterRegStore x (u.pc.toNat + 1)))) ∧
    (exec (.ldBcd x) s = .next t →
      fetch u = some (joinBytes (s.byteAfterDigitStore x u.pc.toNat) (s.byteAfterDigitStore x (u.pc.toNat + 1))))

/-! ## Display -/

/-- R231: 00E0 turns every pixel off and changes nothing else but `pc`; VF is not written. -/
def Obligations.ClearScreenZeroesEveryPixel : Prop :=
  decode 0x00E0 = .instr .cls ∧ ∀ s : State,
    ∃ t, exec .cls s = .next t ∧ (∀ (x : Fin 64) (y : Fin 32), t.fb.pixel x y = false) ∧ t.pc = s.pc + 2 ∧
      SameRegsBut (fun _ => False) s t ∧ t.i = s.i ∧ SameStack s t ∧ SameMem s t ∧ SameTimersFault s t

/-- DXYN in range: sprite bit (r, c), bit 7 - c of byte `I + r`, is XORed into pixel `((VX + c) mod 64, (VY + r) mod 32)`; every
pixel no sprite bit falls on is unchanged; VF is 1 exactly when a set bit falls on a set pixel. VX and VY are the values before VF
is written, the spec's decision D9 (log 15), and the bound is its decision D4 (log 3). -/
def Obligations.DrawXorsTheWrappedSprite : Prop :=
  ∀ (s : State) (x y : RegIx) (n : Nat), n ≤ 15 → s.dataAddr 0 + max n 1 ≤ 4096 →
    ∃ t, exec (.drw x y n) s = .next t ∧
      (∀ r c : Nat, r < n → c < 8 →
        t.fb.pixel (Fin.ofNat 64 ((s.reg x).toNat + c)) (Fin.ofNat 32 ((s.reg y).toNat + r)) =
          (s.fb.pixel (Fin.ofNat 64 ((s.reg x).toNat + c)) (Fin.ofNat 32 ((s.reg y).toNat + r)) ^^
            (s.mem.read (s.dataAddr r)).getLsbD (7 - c))) ∧
      (∀ (px : Fin 64) (py : Fin 32),
        (∀ r c : Nat, r < n → c < 8 →
          ¬(px = Fin.ofNat 64 ((s.reg x).toNat + c) ∧ py = Fin.ofNat 32 ((s.reg y).toNat + r))) →
        t.fb.pixel px py = s.fb.pixel px py) ∧
      ((∃ r c : Nat, r < n ∧ c < 8 ∧ (s.mem.read (s.dataAddr r)).getLsbD (7 - c) = true ∧
          s.fb.pixel (Fin.ofNat 64 ((s.reg x).toNat + c)) (Fin.ofNat 32 ((s.reg y).toNat + r)) = true) →
        t.reg 15 = 1) ∧
      ((∀ r c : Nat, r < n → c < 8 → (s.mem.read (s.dataAddr r)).getLsbD (7 - c) = true →
          s.fb.pixel (Fin.ofNat 64 ((s.reg x).toNat + c)) (Fin.ofNat 32 ((s.reg y).toNat + r)) = false) →
        t.reg 15 = 0) ∧
      t.pc = s.pc + 2 ∧ SameRegsBut (· = 15) s t ∧ t.i = s.i ∧ SameStack s t ∧ SameMem s t ∧ SameTimersFault s t

/-- Drawing the same sprite twice at the same place restores every pixel (XOR cancellation), and the second draw's flag is 1
exactly when the first left a sprite pixel on (44_display.md section 2; the position registers are not VF, which the first draw
writes). -/
def Obligations.DrawingTwiceRestoresTheScreen : Prop :=
  ∀ (s t u : State) (x y : RegIx) (n : Nat), n ≤ 15 → x ≠ 15 → y ≠ 15 →
    exec (.drw x y n) s = .next t → exec (.drw x y n) t = .next u →
    SameDisplay s u ∧
    (u.reg 15 = 1 ↔ ∃ r c : Nat, r < n ∧ c < 8 ∧ (s.mem.read (s.dataAddr r)).getLsbD (7 - c) = true ∧
      s.fb.pixel (Fin.ofNat 64 ((s.reg x).toNat + c)) (Fin.ofNat 32 ((s.reg y).toNat + r)) = false)

/-! ## The host's operations -/

/-- An image of at most 3584 bytes is placed at 0x200 and no other state changes (20_memory.md section 3); a longer one raises
`LoadFault` and writes no memory, which is the spec's decision D16 (log 21). The state has no fault and memory is in its canonical
form. -/
def Obligations.LoadPlacesTheImage : Prop :=
  ∀ (s : State) (image : List Byte), s.fault = none → s.mem.wf = true →
    (image.length ≤ 3584 → ∃ t, load image s = .next t ∧
      (∀ (k : Nat) (h : k < image.length), t.mem.read (0x200 + k) = image[k]) ∧
      SameMemBut 0x200 image.length s t ∧ t.pc = s.pc ∧
      SameRegsBut (fun _ => False) s t ∧ t.i = s.i ∧ SameStack s t ∧ SameDisplay s t ∧ SameTimersFault s t) ∧
    (3584 < image.length → ∃ t, load image s = .fault (.raised (.loadFault image.length) t) ∧ SameMem s t)

/-- A longer image faults and changes the fault element only: that the check comes before any copy is the spec's decision D16,
and the kept record its decision D3 (logs 21 and 1). -/
def Obligations.LoadOfTooLongImageFaults : Prop :=
  ∀ (s : State) (image : List Byte), s.fault = none → 3584 < image.length →
    load image s = .fault (.raised (.loadFault image.length) (s.setFault (some (.loadFault image.length))))

/-- `tick_timers()` lowers each timer that is not zero by 1 and changes nothing else; stopping at 0 is the spec's decision D10
(log 20). -/
def Obligations.TickTimersSaturatesAtZero : Prop :=
  ∀ s : State, (tickTimers s).dt.toNat = s.dt.toNat - 1 ∧ (tickTimers s).st.toNat = s.st.toNat - 1 ∧
    (tickTimers s).pc = s.pc ∧ SameRegsBut (fun _ => False) s (tickTimers s) ∧ (tickTimers s).i = s.i ∧
    SameStack s (tickTimers s) ∧ SameMem s (tickTimers s) ∧ SameDisplay s (tickTimers s) ∧
    (tickTimers s).fault = s.fault

/-! ## Reset and the invariant -/

/-- R290: what `new()` leaves in every element. -/
def Obligations.ResetZeroesEverythingButPc : Prop :=
  (∀ a : Nat, State.reset.mem.read a = 0) ∧ (∀ r : RegIx, State.reset.reg r = 0) ∧ State.reset.i = 0 ∧
  (∀ k : Fin 16, State.reset.stack[k.val] = 0) ∧ State.reset.sp = 0 ∧ State.reset.dt = 0 ∧ State.reset.st = 0 ∧
  (∀ (x : Fin 64) (y : Fin 32), State.reset.fb.pixel x y = false) ∧ State.reset.pc = 0x200 ∧
  State.reset.fault = none

/-- Reset meets the invariant. -/
def Obligations.ResetMeetsTheInvariant : Prop := State.reset.Inv

/-- Every transaction, the step first among them, from every state that meets the invariant leaves one that meets it, whether it
completes or faults: the bounds of `pc` and of the stack entries are inferences 10_state.md marks as its own ([derived]), the
memory's canonical form is the model's (log 7), and the state a fault leaves is the spec's decision D3 (log 1). -/
def Obligations.StepKeepsTheInvariant : Prop :=
  ∀ (tr : Transaction) (s t : State), s.Inv →
    transact tr s = .next t ∨ (∃ r, transact tr s = .fault (.raised r t)) → t.Inv

/-- Every state the host can bring about with `new`, `load`, `step` and `tick_timers` meets the invariant, and both timers are 0
in it: inferences 10_state.md marks as its own ([derived]). The memory's canonical form is the model's (log 7), and the states
left by a fault are counted too, as the spec's decision D3 gives them (log 1). -/
def Obligations.ReachableStatesMeetTheInvariant : Prop :=
  ∀ s : State, Reachable s → s.Inv ∧ s.dt = 0 ∧ s.st = 0

/-- Two memories in the canonical form that read alike are equal data: the model's own choice of form (log 7). -/
def Obligations.CanonicalMemoriesThatReadAlikeAreEqual : Prop :=
  ∀ m m' : Memory, m.wf = true → m'.wf = true → (∀ a : Nat, m.read a = m'.read a) → m = m'

/-! ## The whole machine -/

/-- Which faults an instruction can raise, and that each is the one 60_exceptions.md names for it ([derived] there; the records
are the spec's decision D22): every other instruction raises none. -/
def Obligations.EachInstructionRaisesOnlyItsOwnFault : Prop :=
  ∀ (i : Instr) (s t : State) (r : FaultRecord), exec i s = .fault (.raised r t) →
    (i = .ret ∧ s.sp.val = 0 ∧ r = .stackUnderflow s.pc) ∨
    (∃ nnn, i = .call nnn ∧ s.sp.val = 16 ∧ r = .stackOverflow s.pc nnn) ∨
    (∃ x y n, i = .drw x y n ∧ 4096 < s.i.toNat + max n 1 ∧ r = .memoryFault s.pc (encode i) s.i n) ∨
    (∃ x, i = .ldBcd x ∧ 4096 < s.i.toNat + 3 ∧ r = .memoryFault s.pc (encode i) s.i 3) ∨
    (∃ x, (i = .storeRegs x ∨ i = .loadRegs x) ∧ 4096 < s.i.toNat + (x.val + 1) ∧
      r = .memoryFault s.pc (encode i) s.i (x.val + 1)) ∨
    (∃ x, i = .addIndex x ∧ 0xFFFF < s.i.toNat + (s.reg x).toNat ∧ r = .indexOverflow s.pc s.i (s.reg x))

/-- A `load` or a step that faults leaves the state before it with the fault element set to the record, and nothing else changed:
the spec's decision D3 (log 1). `new` and `tick_timers` complete from every state; that `tick_timers` does so on a faulted state
is the model's choice (log 20). -/
def Obligations.FaultsChangeOnlyTheFaultElement : Prop :=
  (∀ (tr : Transaction) (s t : State) (r : FaultRecord), transact tr s = .fault (.raised r t) →
    s.fault = none ∧ t = s.setFault (some r)) ∧
  (∀ s : State, transact .new s = .next State.reset ∧ transact .tickTimers s = .next (tickTimers s))

/-- Who writes what (10_state.md sections 2 to 7): the framebuffer only 00E0 and DXYN, memory only FX33 and FX55, I only ANNN,
FX1E, FX55 and FX65, the stack and SP only 2NNN and 00EE; a register only an instruction that names it as VX, an FX65 that reaches
it and, for VF, the flag instructions and DXYN; `pc` goes up by 2 but for a jump, a call, a return or a taken skip; and the timers
and the fault element no instruction that completes. -/
def Obligations.EachElementHasOnlyItsNamedWriters : Prop :=
  ∀ (i : Instr) (s t : State), exec i s = .next t →
    (t.fb = s.fb ∨ i = .cls ∨ ∃ x y n, i = .drw x y n) ∧
    (t.mem = s.mem ∨ ∃ x, i = .ldBcd x ∨ i = .storeRegs x) ∧
    (t.i = s.i ∨ (∃ nnn, i = .ldIndex nnn) ∨ ∃ x, i = .addIndex x ∨ i = .storeRegs x ∨ i = .loadRegs x) ∧
    ((t.stack = s.stack ∧ t.sp = s.sp) ∨ i = .ret ∨ ∃ nnn, i = .call nnn) ∧
    (∀ r : RegIx, t.reg r = s.reg r ∨
      (∃ nn, i = .ldImm r nn ∨ i = .addImm r nn) ∨
      (∃ y, i = .ldReg r y ∨ i = .orReg r y ∨ i = .andReg r y ∨ i = .xorReg r y ∨ i = .addReg r y ∨ i = .subReg r y ∨
        i = .shrReg r y ∨ i = .subnReg r y ∨ i = .shlReg r y) ∨
      (∃ x : RegIx, i = .loadRegs x ∧ r.val ≤ x.val) ∨
      (r = 15 ∧
        ((∃ x y, i = .addReg x y ∨ i = .subReg x y ∨ i = .shrReg x y ∨ i = .subnReg x y ∨ i = .shlReg x y) ∨
         ∃ x y n, i = .drw x y n))) ∧
    (t.pc = s.pc + 2 ∨
      (t.pc = s.pc + 4 ∧
        ((∃ x nn, i = .seImm x nn ∨ i = .sneImm x nn) ∨ ∃ x y, i = .seReg x y ∨ i = .sneReg x y)) ∨
      i = .ret ∨ ∃ nnn, i = .jp nnn ∨ i = .call nnn) ∧
    t.dt = s.dt ∧ t.st = s.st ∧ t.fault = s.fault

/-- No instruction reads the timers: a step of a state with other timer values does the same and keeps those values
(10_state.md section 5, 60_exceptions.md section 4). -/
def Obligations.TimersNeverInfluenceAStep : Prop :=
  ∀ (s : State) (a b : Byte), step (s.setTimers a b) = mapOutcome (fun t => t.setTimers a b) (step s)

/-- No step lets a program see a stack slot at or above SP: two states that differ only there step to outcomes of the same kind
that differ only there (10_state.md sections 5 and 8; that a return keeps the slot is the spec's decision D11, log 16). -/
def Obligations.StaleStackSlotsNeverInfluenceAStep : Prop :=
  ∀ s s' : State, SameButStaleSlots s s' → RelatedOutcomes SameButStaleSlots (step s) (step s')

/-- From an even `pc` with only zero bytes ahead, the machine advances by 2 to 0x1000 with nothing else changed, and there the
fetch faults: an inference 20_memory.md marks as its own ([derived]). That the fault changes the fault element only is the spec's
decision D3 (log 1). -/
def Obligations.ZeroedMemorySlidesToTheFetchFault : Prop :=
  ∀ (s : State) (k : Nat), s.fault = none → s.pc.toNat + 2 * k = 0x1000 → (∀ a : Nat, s.pc.toNat ≤ a → s.mem.read a = 0) →
    RunsTo k s (s.setPc 0x1000) ∧
    step (s.setPc 0x1000) =
      .fault (.raised (.fetchFault 0x1000) ((s.setPc 0x1000).setFault (some (.fetchFault 0x1000))))
end

