-- ==== Sys2Proof/Laws/Decode.lean ====
section
/-! SUPPORT. The fields of an encoded word, and that what the decoder answers is well-formed. -/

namespace Sys2Proof

/-! ### The packed words, and their fields -/

theorem packA_toNat {f : Nat} (hf : f < 16) (nnn : Word) : (packA f nnn).toNat = f * 0x1000 + nnn.toNat % 0x1000 := by
  simp only [packA, BitVec.toNat_ofNat]
  omega

theorem packXK_toNat {f : Nat} (hf : f < 16) (x : RegIx) (nn : Nat) :
    (packXK f x nn).toNat = f * 0x1000 + x.val * 0x100 + nn % 0x100 := by
  simp only [packXK, BitVec.toNat_ofNat]
  omega

theorem packXYN_toNat {f : Nat} (hf : f < 16) (x y : RegIx) (n : Nat) :
    (packXYN f x y n).toNat = f * 0x1000 + x.val * 0x100 + y.val * 0x10 + n % 0x10 := by
  simp only [packXYN, BitVec.toNat_ofNat]
  omega

theorem packA_family {f : Nat} (hf : f < 16) (nnn : Word) : fieldFamily (packA f nnn) = f := by
  rw [fieldFamily, packA_toNat hf]
  omega

theorem packA_nnn {f : Nat} (hf : f < 16) {nnn : Word} (h : nnn.toNat < 0x1000) : fieldNNN (packA f nnn) = nnn := by
  rw [fieldNNN, packA_toNat hf]
  apply BitVec.eq_of_toNat_eq
  rw [BitVec.toNat_ofNat]
  omega

theorem packXK_family {f : Nat} (hf : f < 16) (x : RegIx) (nn : Nat) : fieldFamily (packXK f x nn) = f := by
  rw [fieldFamily, packXK_toNat hf]
  omega

theorem packXK_x {f : Nat} (hf : f < 16) (x : RegIx) (nn : Nat) : fieldX (packXK f x nn) = x := by
  apply Fin.ext
  rw [fieldX, packXK_toNat hf, Fin.val_ofNat]
  omega

theorem packXK_nn {f : Nat} (hf : f < 16) (x : RegIx) (nn : Byte) : fieldNN (packXK f x nn.toNat) = nn := by
  rw [fieldNN, packXK_toNat hf]
  apply BitVec.eq_of_toNat_eq
  rw [BitVec.toNat_ofNat]
  omega

theorem packXK_low {f : Nat} (hf : f < 16) (x : RegIx) (nn : Nat) : (packXK f x nn).toNat % 0x100 = nn % 0x100 := by
  rw [packXK_toNat hf]
  omega

theorem packXYN_family {f : Nat} (hf : f < 16) (x y : RegIx) (n : Nat) : fieldFamily (packXYN f x y n) = f := by
  rw [fieldFamily, packXYN_toNat hf]
  omega

theorem packXYN_x {f : Nat} (hf : f < 16) (x y : RegIx) (n : Nat) : fieldX (packXYN f x y n) = x := by
  apply Fin.ext
  rw [fieldX, packXYN_toNat hf, Fin.val_ofNat]
  omega

theorem packXYN_y {f : Nat} (hf : f < 16) (x y : RegIx) (n : Nat) : fieldY (packXYN f x y n) = y := by
  apply Fin.ext
  rw [fieldY, packXYN_toNat hf, Fin.val_ofNat]
  omega

theorem packXYN_n {f : Nat} (hf : f < 16) (x y : RegIx) (n : Nat) : fieldN (packXYN f x y n) = n % 0x10 := by
  rw [fieldN, packXYN_toNat hf]
  omega

/-! ### Byte order -/

theorem joinBytes_toNat (a b : Byte) : (joinBytes a b).toNat = a.toNat * 256 + b.toNat := by
  have hb := b.isLt
  rw [joinBytes, BitVec.toNat_append, Nat.shiftLeft_eq, Nat.mul_comm, ← Nat.two_pow_add_eq_or_of_lt (i := 8) (by omega)]

theorem highByte_toNat (op : Word) : (highByte op).toNat = op.toNat / 256 := by
  have := op.isLt
  simp only [highByte, BitVec.extractLsb'_toNat, Nat.shiftRight_eq_div_pow]
  omega

theorem lowByte_toNat (op : Word) : (lowByte op).toNat = op.toNat % 256 := by
  simp [lowByte, BitVec.extractLsb'_toNat]

/-- Storing an opcode's bytes and reading them back gives the opcode. -/
theorem joinBytes_high_low (op : Word) : joinBytes (highByte op) (lowByte op) = op := by
  apply BitVec.eq_of_toNat_eq
  rw [joinBytes_toNat, highByte_toNat, lowByte_toNat]
  omega

theorem highByte_joinBytes (a b : Byte) : highByte (joinBytes a b) = a := by
  apply BitVec.eq_of_toNat_eq
  rw [highByte_toNat, joinBytes_toNat]
  omega

theorem lowByte_joinBytes (a b : Byte) : lowByte (joinBytes a b) = b := by
  apply BitVec.eq_of_toNat_eq
  rw [lowByte_toNat, joinBytes_toNat]
  omega

/-! ### What the decoder answers -/

theorem fieldNNN_fits (op : Word) : addressFits (fieldNNN op) = true := by
  simp only [addressFits, fieldNNN, BitVec.toNat_ofNat, decide_eq_true_eq]
  omega

theorem fieldN_fits (op : Word) : rowsFit (fieldN op) = true := by
  have : fieldN op ≤ 15 := by
    rw [fieldN]
    omega
  simpa [rowsFit] using this

/-- Every decoded instruction is well-formed. -/
theorem decode_wellFormed {op : Word} {i : Instr} (h : decode op = .instr i) : i.wellFormed = true := by
  unfold decode decodeZ decodeAlu decodeF decodeXY0 at h
  repeat' split at h
  all_goals cases h
  all_goals first | rfl | exact fieldNNN_fits op | exact fieldN_fits op

end Sys2Proof
end

