-- ==== Sys2Proof/Laws/Memory.lean ====
section
/-! SUPPORT. Memory: what a read gives after a write, and that every memory operation keeps the canonical form. -/

namespace Sys2Proof.Machine

theorem Memory.read_cons (k : Nat) (b : Byte) (rest : Memory) (a : Nat) (h : Memory.read rest k = Memory.blank) :
    Memory.read (Memory.cons k b rest) a = if a = k then b else Memory.read rest a := by
  unfold Memory.cons
  by_cases hb : b = Memory.blank
  · by_cases ha : a = k
    · subst ha; simp [hb, h]
    · simp [hb, ha]
  · by_cases ha : a = k
    · subst ha; simp [hb, Memory.read]
    · have : ¬ k = a := fun e => ha e.symm
      simp [hb, Memory.read, ha, this]

/-- Every address below the first listed one reads as `blank`. -/
theorem Memory.read_below : ∀ {m : Memory} {lo a : Nat}, Memory.wfFrom lo m = true → a < lo → m.read a = Memory.blank
  | [], _, _, _, _ => rfl
  | (k, b) :: rest, lo, a, h, ha => by
    simp only [Memory.wfFrom, Bool.and_eq_true, decide_eq_true_eq] at h
    have hk : ¬ k = a := by omega
    simp only [Memory.read, hk, if_false]
    exact Memory.read_below h.2 (by omega)

/-- No address outside 0x000..0xFFF is listed. -/
theorem Memory.read_above : ∀ {m : Memory} {lo a : Nat}, Memory.wfFrom lo m = true → 4096 ≤ a → m.read a = Memory.blank
  | [], _, _, _, _ => rfl
  | (k, b) :: rest, lo, a, h, ha => by
    simp only [Memory.wfFrom, Bool.and_eq_true, decide_eq_true_eq, Config.memSize] at h
    have hk : ¬ k = a := by omega
    simp only [Memory.read, hk, if_false]
    exact Memory.read_above h.2 ha

theorem Memory.wfFrom_mono : ∀ {m : Memory} {lo lo' : Nat}, Memory.wfFrom lo m = true → lo' ≤ lo → Memory.wfFrom lo' m = true
  | [], _, _, _, _ => rfl
  | (k, b) :: rest, lo, lo', h, hl => by
    simp only [Memory.wfFrom, Bool.and_eq_true, decide_eq_true_eq] at h ⊢
    exact ⟨⟨⟨by omega, h.1.1.2⟩, h.1.2⟩, h.2⟩

theorem Memory.cons_wfFrom {k lo : Nat} {b : Byte} {rest : Memory} (h : Memory.wfFrom (k + 1) rest = true) (hlo : lo ≤ k)
    (hk : k < 4096) : Memory.wfFrom lo (Memory.cons k b rest) = true := by
  unfold Memory.cons
  by_cases hb : b = Memory.blank
  · simpa [hb] using Memory.wfFrom_mono h (by omega)
  · simp [hb, Memory.wfFrom, hlo, hk, h]

theorem Memory.write_wfFrom : ∀ {m : Memory} {lo k : Nat} (b : Byte), Memory.wfFrom lo m = true → lo ≤ k → k < 4096 →
    Memory.wfFrom lo (m.write k b) = true
  | [], _, _, _, _, hlo, hk => by
    simpa [Memory.write] using Memory.cons_wfFrom (rest := []) rfl hlo hk
  | (a, c) :: rest, lo, k, b, h, hlo, hk => by
    have h' := h
    simp only [Memory.wfFrom, Bool.and_eq_true, decide_eq_true_eq] at h'
    obtain ⟨⟨⟨ha, hm⟩, hc⟩, hrest⟩ := h'
    by_cases hka : k < a
    · simp only [Memory.write, hka, if_true]
      refine Memory.cons_wfFrom ?_ hlo hk
      simp [Memory.wfFrom, hm, hc, hrest]
      omega
    · by_cases hkk : k = a
      · subst hkk
        simpa [Memory.write] using Memory.cons_wfFrom hrest hlo hk
      · have := Memory.write_wfFrom (m := rest) b hrest (show a + 1 ≤ k by omega) hk
        simp [Memory.write, hka, hkk, Memory.wfFrom, ha, hm, hc, this]

/-- A write inside the address space keeps the canonical form. -/
theorem Memory.write_wf {m : Memory} {k : Nat} (b : Byte) (h : m.wf = true) (hk : k < 4096) : (m.write k b).wf = true :=
  Memory.write_wfFrom b h (Nat.zero_le k) hk

theorem Memory.read_write_from : ∀ {m : Memory} {lo k : Nat} (b : Byte) (a : Nat), Memory.wfFrom lo m = true →
    (m.write k b).read a = if a = k then b else m.read a
  | [], _, k, b, a, _ => by
    rw [Memory.write, Memory.read_cons k b [] a rfl]
  | (j, c) :: rest, lo, k, b, a, h => by
    have h' := h
    simp only [Memory.wfFrom, Bool.and_eq_true, decide_eq_true_eq] at h'
    by_cases hkj : k < j
    · simp only [Memory.write, hkj, if_true]
      refine Memory.read_cons k b _ a ?_
      have hj : ¬ j = k := by omega
      simp only [Memory.read, hj, if_false]
      exact Memory.read_below h'.2 (by omega)
    · by_cases hkk : k = j
      · subst hkk
        simp only [Memory.write, hkj, if_false, if_true]
        rw [Memory.read_cons k b rest a (Memory.read_below h'.2 (by omega))]
        by_cases ha : a = k
        · simp [ha]
        · have : ¬ k = a := fun e => ha e.symm
          simp [ha, Memory.read, this]
      · simp only [Memory.write, hkj, hkk, if_false, Memory.read]
        rw [Memory.read_write_from (m := rest) b a h'.2]
        by_cases ha : j = a
        · have : ¬ a = k := by omega
          simp [ha, this]
        · simp [ha]

/-- A byte reads what was last written to it; every other byte is as before (20_memory.md R64). -/
theorem Memory.read_write {m : Memory} (h : m.wf = true) (k a : Nat) (b : Byte) :
    (m.write k b).read a = if a = k then b else m.read a :=
  Memory.read_write_from b a h

/-- A multi-byte write inside the address space keeps the canonical form. -/
theorem Memory.writeBytes_wf : ∀ {bytes : List Byte} {m : Memory} {k : Nat}, m.wf = true → k + bytes.length ≤ 4096 →
    (m.writeBytes k bytes).wf = true
  | [], _, _, h, _ => h
  | b :: bs, m, k, h, hk => by
    rw [List.length_cons] at hk
    have hw : (m.write k b).wf = true := Memory.write_wf b h (by omega)
    exact Memory.writeBytes_wf (bytes := bs) hw (by omega)

/-- After a multi-byte write, byte `k + j` reads as byte number j, and every byte outside the range is as before. -/
theorem Memory.read_writeBytes : ∀ {bytes : List Byte} {m : Memory} {k : Nat} (a : Nat), m.wf = true →
    k + bytes.length ≤ 4096 →
    (m.writeBytes k bytes).read a = if k ≤ a ∧ a < k + bytes.length then bytes.getD (a - k) 0 else m.read a
  | [], m, k, a, _, _ => by
    have : ¬ (k ≤ a ∧ a < k + ([] : List Byte).length) := by
      intro hr
      rw [List.length_nil] at hr
      omega
    rw [if_neg this]
    rfl
  | b :: bs, m, k, a, h, hk => by
    rw [List.length_cons] at hk
    rw [Memory.writeBytes, Memory.read_writeBytes a (Memory.write_wf b h (by omega)) (by omega), Memory.read_write h]
    by_cases ha : a = k
    · subst ha
      simp
    · by_cases hin : k + 1 ≤ a ∧ a < k + 1 + bs.length
      · have h2 : k ≤ a ∧ a < k + (b :: bs).length := by simp only [List.length_cons]; omega
        rw [if_pos hin, if_pos h2]
        obtain ⟨d, rfl⟩ : ∃ d, a = k + 1 + d := ⟨a - (k + 1), by omega⟩
        rw [show k + 1 + d - k = d + 1 by omega, show k + 1 + d - (k + 1) = d by omega, List.getD_cons_succ]
      · have h2 : ¬(k ≤ a ∧ a < k + (b :: bs).length) := by simp only [List.length_cons]; omega
        rw [if_neg hin, if_neg h2, if_neg ha]

/-- Reset memory is in the canonical form. -/
theorem reset_mem_wf : State.reset.mem.wf = true := rfl

end Sys2Proof.Machine
end

