-- ==== Sys2Proof/Laws/State.lean ====
section
/-! SUPPORT. One lemma per field per update of the state, true by rfl, so that no later proof unfolds an update. -/

namespace Sys2Proof.Machine

/-! ### `setReg` -/

@[simp] theorem setReg_mem (s : State) (x : RegIx) (b : Byte) : (s.setReg x b).mem = s.mem := rfl
@[simp] theorem setReg_v (s : State) (x : RegIx) (b : Byte) : (s.setReg x b).v = s.v.set x.val b x.isLt := rfl
@[simp] theorem setReg_i (s : State) (x : RegIx) (b : Byte) : (s.setReg x b).i = s.i := rfl
@[simp] theorem setReg_pc (s : State) (x : RegIx) (b : Byte) : (s.setReg x b).pc = s.pc := rfl
@[simp] theorem setReg_stack (s : State) (x : RegIx) (b : Byte) : (s.setReg x b).stack = s.stack := rfl
@[simp] theorem setReg_sp (s : State) (x : RegIx) (b : Byte) : (s.setReg x b).sp = s.sp := rfl
@[simp] theorem setReg_dt (s : State) (x : RegIx) (b : Byte) : (s.setReg x b).dt = s.dt := rfl
@[simp] theorem setReg_st (s : State) (x : RegIx) (b : Byte) : (s.setReg x b).st = s.st := rfl
@[simp] theorem setReg_fb (s : State) (x : RegIx) (b : Byte) : (s.setReg x b).fb = s.fb := rfl
@[simp] theorem setReg_fault (s : State) (x : RegIx) (b : Byte) : (s.setReg x b).fault = s.fault := rfl

/-! ### `setRegs` -/

@[simp] theorem setRegs_mem (s : State) (bytes : List Byte) : (s.setRegs bytes).mem = s.mem := rfl
@[simp] theorem setRegs_v (s : State) (bytes : List Byte) : (s.setRegs bytes).v = s.v.mapIdx fun k b => bytes.getD k b := rfl
@[simp] theorem setRegs_i (s : State) (bytes : List Byte) : (s.setRegs bytes).i = s.i := rfl
@[simp] theorem setRegs_pc (s : State) (bytes : List Byte) : (s.setRegs bytes).pc = s.pc := rfl
@[simp] theorem setRegs_stack (s : State) (bytes : List Byte) : (s.setRegs bytes).stack = s.stack := rfl
@[simp] theorem setRegs_sp (s : State) (bytes : List Byte) : (s.setRegs bytes).sp = s.sp := rfl
@[simp] theorem setRegs_dt (s : State) (bytes : List Byte) : (s.setRegs bytes).dt = s.dt := rfl
@[simp] theorem setRegs_st (s : State) (bytes : List Byte) : (s.setRegs bytes).st = s.st := rfl
@[simp] theorem setRegs_fb (s : State) (bytes : List Byte) : (s.setRegs bytes).fb = s.fb := rfl
@[simp] theorem setRegs_fault (s : State) (bytes : List Byte) : (s.setRegs bytes).fault = s.fault := rfl

/-! ### `setRegFlag` -/

@[simp] theorem setRegFlag_mem (s : State) (x : RegIx) (b : Byte) (c : Bool) : (s.setRegFlag x b c).mem = s.mem := rfl
@[simp] theorem setRegFlag_v (s : State) (x : RegIx) (b : Byte) (c : Bool) : (s.setRegFlag x b c).v = (s.v.set x.val b x.isLt).set vf.val (flagByte c) vf.isLt := rfl
@[simp] theorem setRegFlag_i (s : State) (x : RegIx) (b : Byte) (c : Bool) : (s.setRegFlag x b c).i = s.i := rfl
@[simp] theorem setRegFlag_pc (s : State) (x : RegIx) (b : Byte) (c : Bool) : (s.setRegFlag x b c).pc = s.pc := rfl
@[simp] theorem setRegFlag_stack (s : State) (x : RegIx) (b : Byte) (c : Bool) : (s.setRegFlag x b c).stack = s.stack := rfl
@[simp] theorem setRegFlag_sp (s : State) (x : RegIx) (b : Byte) (c : Bool) : (s.setRegFlag x b c).sp = s.sp := rfl
@[simp] theorem setRegFlag_dt (s : State) (x : RegIx) (b : Byte) (c : Bool) : (s.setRegFlag x b c).dt = s.dt := rfl
@[simp] theorem setRegFlag_st (s : State) (x : RegIx) (b : Byte) (c : Bool) : (s.setRegFlag x b c).st = s.st := rfl
@[simp] theorem setRegFlag_fb (s : State) (x : RegIx) (b : Byte) (c : Bool) : (s.setRegFlag x b c).fb = s.fb := rfl
@[simp] theorem setRegFlag_fault (s : State) (x : RegIx) (b : Byte) (c : Bool) : (s.setRegFlag x b c).fault = s.fault := rfl

/-! ### `setIndex` -/

@[simp] theorem setIndex_mem (s : State) (w : Word) : (s.setIndex w).mem = s.mem := rfl
@[simp] theorem setIndex_v (s : State) (w : Word) : (s.setIndex w).v = s.v := rfl
@[simp] theorem setIndex_i (s : State) (w : Word) : (s.setIndex w).i = w := rfl
@[simp] theorem setIndex_pc (s : State) (w : Word) : (s.setIndex w).pc = s.pc := rfl
@[simp] theorem setIndex_stack (s : State) (w : Word) : (s.setIndex w).stack = s.stack := rfl
@[simp] theorem setIndex_sp (s : State) (w : Word) : (s.setIndex w).sp = s.sp := rfl
@[simp] theorem setIndex_dt (s : State) (w : Word) : (s.setIndex w).dt = s.dt := rfl
@[simp] theorem setIndex_st (s : State) (w : Word) : (s.setIndex w).st = s.st := rfl
@[simp] theorem setIndex_fb (s : State) (w : Word) : (s.setIndex w).fb = s.fb := rfl
@[simp] theorem setIndex_fault (s : State) (w : Word) : (s.setIndex w).fault = s.fault := rfl

/-! ### `setPc` -/

@[simp] theorem setPc_mem (s : State) (w : Word) : (s.setPc w).mem = s.mem := rfl
@[simp] theorem setPc_v (s : State) (w : Word) : (s.setPc w).v = s.v := rfl
@[simp] theorem setPc_i (s : State) (w : Word) : (s.setPc w).i = s.i := rfl
@[simp] theorem setPc_pc (s : State) (w : Word) : (s.setPc w).pc = w := rfl
@[simp] theorem setPc_stack (s : State) (w : Word) : (s.setPc w).stack = s.stack := rfl
@[simp] theorem setPc_sp (s : State) (w : Word) : (s.setPc w).sp = s.sp := rfl
@[simp] theorem setPc_dt (s : State) (w : Word) : (s.setPc w).dt = s.dt := rfl
@[simp] theorem setPc_st (s : State) (w : Word) : (s.setPc w).st = s.st := rfl
@[simp] theorem setPc_fb (s : State) (w : Word) : (s.setPc w).fb = s.fb := rfl
@[simp] theorem setPc_fault (s : State) (w : Word) : (s.setPc w).fault = s.fault := rfl

/-! ### `setMem` -/

@[simp] theorem setMem_mem (s : State) (m : Memory) : (s.setMem m).mem = m := rfl
@[simp] theorem setMem_v (s : State) (m : Memory) : (s.setMem m).v = s.v := rfl
@[simp] theorem setMem_i (s : State) (m : Memory) : (s.setMem m).i = s.i := rfl
@[simp] theorem setMem_pc (s : State) (m : Memory) : (s.setMem m).pc = s.pc := rfl
@[simp] theorem setMem_stack (s : State) (m : Memory) : (s.setMem m).stack = s.stack := rfl
@[simp] theorem setMem_sp (s : State) (m : Memory) : (s.setMem m).sp = s.sp := rfl
@[simp] theorem setMem_dt (s : State) (m : Memory) : (s.setMem m).dt = s.dt := rfl
@[simp] theorem setMem_st (s : State) (m : Memory) : (s.setMem m).st = s.st := rfl
@[simp] theorem setMem_fb (s : State) (m : Memory) : (s.setMem m).fb = s.fb := rfl
@[simp] theorem setMem_fault (s : State) (m : Memory) : (s.setMem m).fault = s.fault := rfl

/-! ### `setFb` -/

@[simp] theorem setFb_mem (s : State) (f : Framebuffer) : (s.setFb f).mem = s.mem := rfl
@[simp] theorem setFb_v (s : State) (f : Framebuffer) : (s.setFb f).v = s.v := rfl
@[simp] theorem setFb_i (s : State) (f : Framebuffer) : (s.setFb f).i = s.i := rfl
@[simp] theorem setFb_pc (s : State) (f : Framebuffer) : (s.setFb f).pc = s.pc := rfl
@[simp] theorem setFb_stack (s : State) (f : Framebuffer) : (s.setFb f).stack = s.stack := rfl
@[simp] theorem setFb_sp (s : State) (f : Framebuffer) : (s.setFb f).sp = s.sp := rfl
@[simp] theorem setFb_dt (s : State) (f : Framebuffer) : (s.setFb f).dt = s.dt := rfl
@[simp] theorem setFb_st (s : State) (f : Framebuffer) : (s.setFb f).st = s.st := rfl
@[simp] theorem setFb_fb (s : State) (f : Framebuffer) : (s.setFb f).fb = f := rfl
@[simp] theorem setFb_fault (s : State) (f : Framebuffer) : (s.setFb f).fault = s.fault := rfl

/-! ### `setStack` -/

@[simp] theorem setStack_mem (s : State) (k : Vector Word 16) (n : Fin 17) : (s.setStack k n).mem = s.mem := rfl
@[simp] theorem setStack_v (s : State) (k : Vector Word 16) (n : Fin 17) : (s.setStack k n).v = s.v := rfl
@[simp] theorem setStack_i (s : State) (k : Vector Word 16) (n : Fin 17) : (s.setStack k n).i = s.i := rfl
@[simp] theorem setStack_pc (s : State) (k : Vector Word 16) (n : Fin 17) : (s.setStack k n).pc = s.pc := rfl
@[simp] theorem setStack_stack (s : State) (k : Vector Word 16) (n : Fin 17) : (s.setStack k n).stack = k := rfl
@[simp] theorem setStack_sp (s : State) (k : Vector Word 16) (n : Fin 17) : (s.setStack k n).sp = n := rfl
@[simp] theorem setStack_dt (s : State) (k : Vector Word 16) (n : Fin 17) : (s.setStack k n).dt = s.dt := rfl
@[simp] theorem setStack_st (s : State) (k : Vector Word 16) (n : Fin 17) : (s.setStack k n).st = s.st := rfl
@[simp] theorem setStack_fb (s : State) (k : Vector Word 16) (n : Fin 17) : (s.setStack k n).fb = s.fb := rfl
@[simp] theorem setStack_fault (s : State) (k : Vector Word 16) (n : Fin 17) : (s.setStack k n).fault = s.fault := rfl

/-! ### `setTimers` -/

@[simp] theorem setTimers_mem (s : State) (a b : Byte) : (s.setTimers a b).mem = s.mem := rfl
@[simp] theorem setTimers_v (s : State) (a b : Byte) : (s.setTimers a b).v = s.v := rfl
@[simp] theorem setTimers_i (s : State) (a b : Byte) : (s.setTimers a b).i = s.i := rfl
@[simp] theorem setTimers_pc (s : State) (a b : Byte) : (s.setTimers a b).pc = s.pc := rfl
@[simp] theorem setTimers_stack (s : State) (a b : Byte) : (s.setTimers a b).stack = s.stack := rfl
@[simp] theorem setTimers_sp (s : State) (a b : Byte) : (s.setTimers a b).sp = s.sp := rfl
@[simp] theorem setTimers_dt (s : State) (a b : Byte) : (s.setTimers a b).dt = a := rfl
@[simp] theorem setTimers_st (s : State) (a b : Byte) : (s.setTimers a b).st = b := rfl
@[simp] theorem setTimers_fb (s : State) (a b : Byte) : (s.setTimers a b).fb = s.fb := rfl
@[simp] theorem setTimers_fault (s : State) (a b : Byte) : (s.setTimers a b).fault = s.fault := rfl

/-! ### `setFault` -/

@[simp] theorem setFault_mem (s : State) (f : Option FaultRecord) : (s.setFault f).mem = s.mem := rfl
@[simp] theorem setFault_v (s : State) (f : Option FaultRecord) : (s.setFault f).v = s.v := rfl
@[simp] theorem setFault_i (s : State) (f : Option FaultRecord) : (s.setFault f).i = s.i := rfl
@[simp] theorem setFault_pc (s : State) (f : Option FaultRecord) : (s.setFault f).pc = s.pc := rfl
@[simp] theorem setFault_stack (s : State) (f : Option FaultRecord) : (s.setFault f).stack = s.stack := rfl
@[simp] theorem setFault_sp (s : State) (f : Option FaultRecord) : (s.setFault f).sp = s.sp := rfl
@[simp] theorem setFault_dt (s : State) (f : Option FaultRecord) : (s.setFault f).dt = s.dt := rfl
@[simp] theorem setFault_st (s : State) (f : Option FaultRecord) : (s.setFault f).st = s.st := rfl
@[simp] theorem setFault_fb (s : State) (f : Option FaultRecord) : (s.setFault f).fb = s.fb := rfl
@[simp] theorem setFault_fault (s : State) (f : Option FaultRecord) : (s.setFault f).fault = f := rfl

/-! ### Registers seen through the other updates -/

@[simp] theorem setIndex_reg (s : State) (w : Word) (r : RegIx) : (s.setIndex w).reg r = s.reg r := rfl
@[simp] theorem setPc_reg (s : State) (w : Word) (r : RegIx) : (s.setPc w).reg r = s.reg r := rfl
@[simp] theorem setMem_reg (s : State) (m : Memory) (r : RegIx) : (s.setMem m).reg r = s.reg r := rfl
@[simp] theorem setFb_reg (s : State) (f : Framebuffer) (r : RegIx) : (s.setFb f).reg r = s.reg r := rfl
@[simp] theorem setStack_reg (s : State) (k : Vector Word 16) (n : Fin 17) (r : RegIx) : (s.setStack k n).reg r = s.reg r := rfl
@[simp] theorem setTimers_reg (s : State) (a b : Byte) (r : RegIx) : (s.setTimers a b).reg r = s.reg r := rfl
@[simp] theorem setFault_reg (s : State) (f : Option FaultRecord) (r : RegIx) : (s.setFault f).reg r = s.reg r := rfl

/-- A register reads what was last written to it; every other register is as before. -/
theorem setReg_reg (s : State) (x r : RegIx) (b : Byte) : (s.setReg x b).reg r = if r = x then b else s.reg r := by
  by_cases h : r = x
  · subst h; simp [State.reg]
  · have : x.val ≠ r.val := fun e => h (Fin.ext e.symm)
    simp [State.reg, h, Vector.getElem_set_ne, this]

@[simp] theorem setReg_reg_same (s : State) (x : RegIx) (b : Byte) : (s.setReg x b).reg x = b := by
  simp [setReg_reg]

theorem setReg_reg_other (s : State) {x r : RegIx} (b : Byte) (h : r ≠ x) : (s.setReg x b).reg r = s.reg r := by
  simp [setReg_reg, h]

/-- Register r below the length of the bytes holds its byte; every other register is as before. -/
theorem setRegs_reg (s : State) (bytes : List Byte) (r : RegIx) :
    (s.setRegs bytes).reg r = bytes.getD r.val (s.reg r) := by
  simp [State.reg]

/-- The flag write comes last: VF holds the flag even when it is the destination (R160). -/
theorem setRegFlag_reg (s : State) (x r : RegIx) (b : Byte) (c : Bool) :
    (s.setRegFlag x b c).reg r = if r = vf then flagByte c else if r = x then b else s.reg r := by
  simp [State.setRegFlag, setReg_reg]

end Sys2Proof.Machine
end

