-- ==== Sys2Proof/Laws/Ops.lean ====
section
/-! SUPPORT. Everything the shared operations can answer, said once. -/

namespace Sys2Proof.Machine

theorem inRange_iff (a n : Nat) : inRange a n = true ↔ a + max n 1 ≤ 4096 := by simp [inRange]

/-! ### `memRead` and `memWrite` -/

theorem memRead_some_iff {s : State} {a n : Nat} {bytes : List Byte} :
    s.memRead a n = some bytes ↔ a + max n 1 ≤ 4096 ∧ bytes = (List.range n).map fun k => s.mem.read (a + k) := by
  unfold State.memRead
  by_cases h : a + max n 1 ≤ 4096
  · simp [(inRange_iff a n).mpr h, h, eq_comm]
  · have : inRange a n = false := by
      rw [Bool.eq_false_iff]
      exact fun e => h ((inRange_iff a n).mp e)
    simp [this, h]

theorem memRead_none_iff {s : State} {a n : Nat} : s.memRead a n = none ↔ ¬ a + max n 1 ≤ 4096 := by
  unfold State.memRead
  rw [← inRange_iff]
  cases inRange a n <;> simp

theorem memWrite_some_iff {s t : State} {a : Nat} {bytes : List Byte} :
    s.memWrite a bytes = some t ↔ a + max bytes.length 1 ≤ 4096 ∧ t = s.setMem (s.mem.writeBytes a bytes) := by
  unfold State.memWrite
  rw [← inRange_iff]
  cases inRange a bytes.length <;> simp [eq_comm]

theorem memWrite_none_iff {s : State} {a : Nat} {bytes : List Byte} :
    s.memWrite a bytes = none ↔ ¬ a + max bytes.length 1 ≤ 4096 := by
  unfold State.memWrite
  rw [← inRange_iff]
  cases inRange a bytes.length <;> simp

/-- The memory operation keeps the canonical form. -/
theorem memWrite_wf {s t : State} {a : Nat} {bytes : List Byte} (h : s.memWrite a bytes = some t) (hw : s.mem.wf = true) :
    t.mem.wf = true := by
  obtain ⟨hr, rfl⟩ := memWrite_some_iff.mp h
  exact Memory.writeBytes_wf hw (by omega)

/-! ### `push` and `pop` -/

theorem push_some_iff {s t : State} {w : Word} :
    s.push w = some t ↔
      ∃ h : s.sp.val < 16, t = s.setStack (s.stack.set s.sp.val w h) ⟨s.sp.val + 1, by omega⟩ := by
  unfold State.push
  by_cases h : s.sp.val < 16
  · rw [dif_pos h]
    exact ⟨fun e => ⟨h, (Option.some.inj e).symm⟩, fun ⟨_, e⟩ => by rw [e]⟩
  · rw [dif_neg h]
    exact ⟨(nomatch ·), fun ⟨h', _⟩ => absurd h' h⟩

theorem push_none_iff {s : State} {w : Word} : s.push w = none ↔ s.sp.val = 16 := by
  unfold State.push
  by_cases h : s.sp.val < 16
  · simp only [h, dif_pos]
    constructor
    · intro e; cases e
    · intro e; omega
  · simp only [h, dif_neg, not_false_eq_true, true_iff]
    have := s.sp.isLt
    omega

theorem pop_some_iff {s t : State} {w : Word} :
    s.pop = some (w, t) ↔
      ∃ h : 0 < s.sp.val, w = s.stack[s.sp.val - 1]'(by omega) ∧ t = s.setStack s.stack ⟨s.sp.val - 1, by omega⟩ := by
  unfold State.pop
  by_cases h : 0 < s.sp.val
  · rw [dif_pos h]
    constructor
    · intro e
      obtain ⟨e1, e2⟩ := Prod.mk.inj (Option.some.inj e)
      exact ⟨h, e1.symm, e2.symm⟩
    · rintro ⟨_, e1, e2⟩
      rw [e1, e2]
  · rw [dif_neg h]
    exact ⟨(nomatch ·), fun ⟨h', _⟩ => absurd h' h⟩

theorem pop_none_iff {s : State} : s.pop = none ↔ s.sp.val = 0 := by
  unfold State.pop
  by_cases h : 0 < s.sp.val
  · simp only [h, dif_pos]
    constructor
    · intro e; cases e
    · intro e; omega
  · simp only [h, dif_neg, not_false_eq_true, true_iff]
    omega

/-! ### Finishing and faulting -/

/-- `complete` always answers a next state. -/
theorem complete_eq (n : NextPc) (s : State) : complete n s = .next (s.setPc (n.after s.pc)) := rfl

/-- `raise` always answers the fault, and the state it leaves differs in the fault element only. -/
theorem raise_eq (r : FaultRecord) (s : State) : raise r s = .fault (.raised r (s.setFault (some r))) := rfl

@[simp] theorem after_next (pc : Word) : NextPc.next.after pc = pc + 2 := rfl
@[simp] theorem after_skipNext (pc : Word) : NextPc.skipNext.after pc = pc + 4 := rfl
@[simp] theorem after_target (w pc : Word) : (NextPc.target w).after pc = w := rfl
@[simp] theorem skipIf_true : skipIf true = .skipNext := rfl
@[simp] theorem skipIf_false : skipIf false = .next := rfl

/-! ### Fetch -/

theorem fetchable_iff (pc : Word) : fetchable pc = true ↔ pc.toNat + 1 < 4096 := by simp [fetchable]

theorem fetch_some_iff {s : State} {op : Word} :
    fetch s = some op ↔ s.pc.toNat + 1 < 4096 ∧ op = s.wordAt s.pc.toNat := by
  unfold fetch
  rw [← fetchable_iff]
  cases fetchable s.pc <;> simp [eq_comm]

theorem fetch_none_iff {s : State} : fetch s = none ↔ 4096 ≤ s.pc.toNat + 1 := by
  unfold fetch
  rw [← not_lt, ← fetchable_iff]
  cases fetchable s.pc <;> simp

/-! ### Operands -/

/-- Byte k of the block FX55 stores is `V[k]`. -/
theorem regsUpTo_getD (s : State) (x : RegIx) {k : Nat} (hk : k ≤ x.val) (d : Byte) :
    (s.regsUpTo x).getD k d = s.v[k]'(by omega) := by
  simp [State.regsUpTo, transferCount, List.getD, Nat.lt_succ_of_le hk]

theorem regsUpTo_length (s : State) (x : RegIx) : (s.regsUpTo x).length = transferCount x := by
  simp [State.regsUpTo, transferCount]

theorem decimalDigits_length (b : Byte) : (decimalDigits b).length = 3 := rfl

end Sys2Proof.Machine
end

