-- ==== Sys2Proof/Laws/Display.lean ====
section
/-! SUPPORT. The compositor: what one pixel write and one sprite bit do. -/

namespace Sys2Proof.Machine

/-- A pixel reads what was last written to it; every other pixel is as before. -/
theorem Framebuffer.pixel_setPixel (fb : Framebuffer) (x x' : Fin 64) (y y' : Fin 32) (b : Bool) :
    (fb.setPixel x y b).pixel x' y' = if x' = x ∧ y' = y then b else fb.pixel x' y' := by
  unfold Framebuffer.setPixel Framebuffer.pixel
  by_cases hy : y' = y
  · subst hy
    by_cases hx : x' = x
    · subst hx; simp
    · have : x.val ≠ x'.val := fun e => hx (Fin.ext e.symm)
      simp [hx, Vector.getElem_set_ne, this]
  · have : y.val ≠ y'.val := fun e => hy (Fin.ext e.symm)
    simp [hy, Vector.getElem_set_ne, this]

/-- Every pixel of the clear framebuffer is 0. -/
@[simp] theorem Framebuffer.pixel_clear (x : Fin 64) (y : Fin 32) : Framebuffer.clear.pixel x y = false := by
  simp [Framebuffer.clear, Framebuffer.pixel]

/-- Two framebuffers with the same pixels are equal data. -/
theorem Framebuffer.ext_pixel {f g : Framebuffer} (h : ∀ x y, f.pixel x y = g.pixel x y) : f = g := by
  refine Vector.ext fun y hy => Vector.ext fun x hx => ?_
  exact h ⟨x, hx⟩ ⟨y, hy⟩

/-- One sprite bit changes one pixel (R235). -/
theorem drawBit_pixel (x0 y0 j : Nat) (bit : Bool) (acc : Framebuffer × Bool) (x : Fin 64) (y : Fin 32) :
    (drawBit x0 y0 j bit acc).1.pixel x y =
      if x = destX x0 (j % 8) ∧ y = destY y0 (j / 8) then acc.1.pixel x y ^^ bit else acc.1.pixel x y := by
  simp only [drawBit, Framebuffer.pixel_setPixel, Config.spriteWidth]
  split
  · next h => rw [h.1, h.2]
  · rfl

/-- One sprite bit sets the collision flag iff it is 1 at a pixel that is 1 (R236). -/
theorem drawBit_hit (x0 y0 j : Nat) (bit : Bool) (acc : Framebuffer × Bool) :
    (drawBit x0 y0 j bit acc).2 = (acc.2 || (bit && acc.1.pixel (destX x0 (j % 8)) (destY y0 (j / 8)))) := rfl

/-- Bit j of a sprite is bit `7 - j mod 8` of byte `j div 8` (R232). -/
theorem spriteBits_getD : ∀ (bytes : List Byte) (j : Nat), j < 8 * bytes.length →
    (spriteBits bytes).getD j false = (bytes.getD (j / 8) 0).getLsbD (7 - j % 8)
  | [], _, h => by simp at h
  | b :: bs, j, h => by
    rw [List.length_cons] at h
    have hl : (byteBits b).length = 8 := by simp [byteBits]
    rw [spriteBits, List.flatMap_cons]
    by_cases hj : j < 8
    · rw [List.getD_append _ _ _ _ (by omega), show j / 8 = 0 by omega, show j % 8 = j by omega]
      simp [byteBits, List.getD, hj]
    · rw [List.getD_append_right _ _ _ _ (by omega), hl]
      have := spriteBits_getD bs (j - 8) (by omega)
      rw [spriteBits] at this
      rw [this, show (j - 8) / 8 = j / 8 - 1 by omega, show (j - 8) % 8 = j % 8 by omega]
      obtain ⟨d, hd⟩ : ∃ d, j / 8 = d + 1 := ⟨j / 8 - 1, by omega⟩
      rw [hd, List.getD_cons_succ, Nat.add_sub_cancel]

theorem spriteBits_length (bytes : List Byte) : (spriteBits bytes).length = 8 * bytes.length := by
  induction bytes with
  | nil => rfl
  | cons b bs ih =>
    rw [spriteBits, List.flatMap_cons, List.length_append, ← spriteBits, ih, List.length_cons]
    simp [byteBits]
    omega

end Sys2Proof.Machine
end

