-- ==== Sys2Proof/Laws/Exec.lean ====
section
/-! SUPPORT. What `exec` and `step` can answer, said once: which next state, which fault, never a refusal. -/

namespace Sys2Proof.Machine

/-- The next states an instruction has, its conditions included. -/
def Effect : Instr → State → State → Prop
  | .cls, s, t => t = (s.setFb Framebuffer.clear).setPc (s.pc + 2)
  | .ret, s, t => ∃ h : 0 < s.sp.val,
      t = (s.setStack s.stack ⟨s.sp.val - 1, by omega⟩).setPc (s.stack[s.sp.val - 1]'(by omega) + 2)
  | .jp nnn, s, t => t = s.setPc nnn
  | .call nnn, s, t => ∃ h : s.sp.val < 16,
      t = (s.setStack (s.stack.set s.sp.val s.pc h) ⟨s.sp.val + 1, by omega⟩).setPc nnn
  | .seImm x nn, s, t => t = s.setPc (if s.reg x = nn then s.pc + 4 else s.pc + 2)
  | .sneImm x nn, s, t => t = s.setPc (if s.reg x ≠ nn then s.pc + 4 else s.pc + 2)
  | .seReg x y, s, t => t = s.setPc (if s.reg x = s.reg y then s.pc + 4 else s.pc + 2)
  | .sneReg x y, s, t => t = s.setPc (if s.reg x ≠ s.reg y then s.pc + 4 else s.pc + 2)
  | .ldImm x nn, s, t => t = (s.setReg x nn).setPc (s.pc + 2)
  | .addImm x nn, s, t => t = (s.setReg x (addBytes (s.reg x) nn)).setPc (s.pc + 2)
  | .ldReg x y, s, t => t = (s.setReg x (s.reg y)).setPc (s.pc + 2)
  | .orReg x y, s, t => t = (s.setReg x (s.reg x ||| s.reg y)).setPc (s.pc + 2)
  | .andReg x y, s, t => t = (s.setReg x (s.reg x &&& s.reg y)).setPc (s.pc + 2)
  | .xorReg x y, s, t => t = (s.setReg x (s.reg x ^^^ s.reg y)).setPc (s.pc + 2)
  | .addReg x y, s, t =>
      t = (s.setRegFlag x (addBytes (s.reg x) (s.reg y)) (carryFlag (s.reg x) (s.reg y))).setPc (s.pc + 2)
  | .subReg x y, s, t =>
      t = (s.setRegFlag x (subBytes (s.reg x) (s.reg y)) (underflowFlag (s.reg x) (s.reg y))).setPc (s.pc + 2)
  | .shrReg x _, s, t => t = (s.setRegFlag x (shrByte (s.reg x)) (shrFlag shrVf (s.reg x))).setPc (s.pc + 2)
  | .subnReg x y, s, t =>
      t = (s.setRegFlag x (subBytes (s.reg y) (s.reg x)) (underflowFlag (s.reg y) (s.reg x))).setPc (s.pc + 2)
  | .shlReg x _, s, t => t = (s.setRegFlag x (shlByte (s.reg x)) (shlFlag (s.reg x))).setPc (s.pc + 2)
  | .ldIndex nnn, s, t => t = (s.setIndex nnn).setPc (s.pc + 2)
  | .drw x y n, s, t => s.dataAddr 0 + max n 1 ≤ 4096 ∧ ∃ d, d = draw (s.reg x) (s.reg y)
        (spriteBits ((List.range n).map fun k => s.mem.read (s.dataAddr 0 + k))) s.fb ∧
      t = ((s.setFb d.1).setReg vf (flagByte d.2)).setPc (s.pc + 2)
  | .addIndex x, s, t => s.i.toNat + (s.reg x).toNat ≤ 0xFFFF ∧
      t = (s.setIndex (BitVec.ofNat 16 (s.i.toNat + (s.reg x).toNat))).setPc (s.pc + 2)
  | .ldBcd x, s, t => s.dataAddr 0 + 3 ≤ 4096 ∧
      t = (s.setMem (s.mem.writeBytes (s.dataAddr 0) (decimalDigits (s.reg x)))).setPc (s.pc + 2)
  | .storeRegs x, s, t => s.dataAddr 0 + transferCount x ≤ 4096 ∧
      t = ((s.setMem (s.mem.writeBytes (s.dataAddr 0) (s.regsUpTo x))).setIndex
        (s.indexPast (transferCount x))).setPc (s.pc + 2)
  | .loadRegs x, s, t => s.dataAddr 0 + transferCount x ≤ 4096 ∧
      t = ((s.setRegs ((List.range (transferCount x)).map fun k => s.mem.read (s.dataAddr 0 + k))).setIndex
        (s.indexPast (transferCount x))).setPc (s.pc + 2)

/-- The fault an instruction raises, and when. -/
def Raises : Instr → State → FaultRecord → Prop
  | .ret, s, r => s.sp.val = 0 ∧ r = .stackUnderflow s.pc
  | .call nnn, s, r => s.sp.val = 16 ∧ r = .stackOverflow s.pc nnn
  | .drw x y n, s, r => 4096 < s.dataAddr 0 + max n 1 ∧ r = .memoryFault s.pc (encode (.drw x y n)) s.i n
  | .addIndex x, s, r => 0xFFFF < s.i.toNat + (s.reg x).toNat ∧ r = .indexOverflow s.pc s.i (s.reg x)
  | .ldBcd x, s, r => 4096 < s.dataAddr 0 + 3 ∧ r = .memoryFault s.pc (encode (.ldBcd x)) s.i 3
  | .storeRegs x, s, r => 4096 < s.dataAddr 0 + transferCount x ∧
      r = .memoryFault s.pc (encode (.storeRegs x)) s.i (transferCount x)
  | .loadRegs x, s, r => 4096 < s.dataAddr 0 + transferCount x ∧
      r = .memoryFault s.pc (encode (.loadRegs x)) s.i (transferCount x)
  | _, _, _ => False

/-! ### One lemma per meaning that can fault -/

theorem execRet_cases (s : State) :
    (∃ t, execRet s = .next t ∧ Effect .ret s t) ∨ (∃ r, execRet s = raise r s ∧ Raises .ret s r) := by
  by_cases h : 0 < s.sp.val
  · refine .inl ⟨_, ?_, h, rfl⟩
    rw [execRet, pop_some_iff.mpr ⟨h, rfl, rfl⟩]
    rfl
  · refine .inr ⟨.stackUnderflow s.pc, ?_, by omega, rfl⟩
    rw [execRet, pop_none_iff.mpr (by omega)]

theorem execCall_cases (nnn : Word) (s : State) :
    (∃ t, execCall nnn s = .next t ∧ Effect (.call nnn) s t) ∨
      (∃ r, execCall nnn s = raise r s ∧ Raises (.call nnn) s r) := by
  by_cases h : s.sp.val < 16
  · refine .inl ⟨_, ?_, h, rfl⟩
    rw [execCall, push_some_iff.mpr ⟨h, rfl⟩]
    rfl
  · have h16 : s.sp.val = 16 := by omega
    refine .inr ⟨.stackOverflow s.pc nnn, ?_, h16, rfl⟩
    rw [execCall, push_none_iff.mpr h16]

theorem execAddIndex_cases (x : RegIx) (s : State) :
    (∃ t, execAddIndex x s = .next t ∧ Effect (.addIndex x) s t) ∨
      (∃ r, execAddIndex x s = raise r s ∧ Raises (.addIndex x) s r) := by
  by_cases h : s.i.toNat + (s.reg x).toNat > 0xFFFF
  · refine .inr ⟨_, ?_, h, rfl⟩
    simp only [execAddIndex, addToIndex, iOverflow, if_pos h]
  · refine .inl ⟨_, ?_, by omega, rfl⟩
    simp only [execAddIndex, addToIndex, if_neg h]
    rfl

theorem execLdBcd_cases (x : RegIx) (s : State) :
    (∃ t, execLdBcd x s = .next t ∧ Effect (.ldBcd x) s t) ∨ (∃ r, execLdBcd x s = raise r s ∧ Raises (.ldBcd x) s r) := by
  have hl := decimalDigits_length (s.reg x)
  by_cases h : s.dataAddr 0 + 3 ≤ 4096
  · refine .inl ⟨_, ?_, h, rfl⟩
    rw [execLdBcd, memWrite_some_iff.mpr ⟨by omega, rfl⟩]
    rfl
  · refine .inr ⟨_, ?_, by omega, rfl⟩
    rw [execLdBcd, memWrite_none_iff.mpr (by omega)]
    rfl

theorem execStoreRegs_cases (x : RegIx) (s : State) :
    (∃ t, execStoreRegs x s = .next t ∧ Effect (.storeRegs x) s t) ∨
      (∃ r, execStoreRegs x s = raise r s ∧ Raises (.storeRegs x) s r) := by
  have hl := regsUpTo_length s x
  have hc : 1 ≤ transferCount x := by simp [transferCount]
  by_cases h : s.dataAddr 0 + transferCount x ≤ 4096
  · refine .inl ⟨_, ?_, h, rfl⟩
    rw [execStoreRegs, memWrite_some_iff.mpr ⟨by omega, rfl⟩]
    rfl
  · refine .inr ⟨_, ?_, by omega, rfl⟩
    rw [execStoreRegs, memWrite_none_iff.mpr (by omega)]
    rfl

theorem execLoadRegs_cases (x : RegIx) (s : State) :
    (∃ t, execLoadRegs x s = .next t ∧ Effect (.loadRegs x) s t) ∨
      (∃ r, execLoadRegs x s = raise r s ∧ Raises (.loadRegs x) s r) := by
  have hc : 1 ≤ transferCount x := by simp [transferCount]
  by_cases h : s.dataAddr 0 + transferCount x ≤ 4096
  · refine .inl ⟨_, ?_, h, rfl⟩
    rw [execLoadRegs, memRead_some_iff.mpr ⟨by omega, rfl⟩]
    rfl
  · refine .inr ⟨_, ?_, by omega, rfl⟩
    rw [execLoadRegs, memRead_none_iff.mpr (by omega)]
    rfl

theorem execDrw_cases (x y : RegIx) (n : Nat) (s : State) :
    (∃ t, execDrw x y n s = .next t ∧ Effect (.drw x y n) s t) ∨
      (∃ r, execDrw x y n s = raise r s ∧ Raises (.drw x y n) s r) := by
  by_cases h : s.dataAddr 0 + max n 1 ≤ 4096
  · refine .inl ⟨_, ?_, h, _, rfl, rfl⟩
    rw [execDrw, memRead_some_iff.mpr ⟨h, rfl⟩]
    rfl
  · refine .inr ⟨_, ?_, by omega, rfl⟩
    rw [execDrw, memRead_none_iff.mpr h]
    rfl

/-! ### `exec` and `step` -/

/-- Every instruction, in every state, either completes with its effect or raises its fault. -/
theorem exec_cases (i : Instr) (s : State) :
    (∃ t, exec i s = .next t ∧ Effect i s t) ∨ (∃ r, exec i s = raise r s ∧ Raises i s r) := by
  cases i with
  | ret => exact execRet_cases s
  | call nnn => exact execCall_cases nnn s
  | drw x y n => exact execDrw_cases x y n s
  | addIndex x => exact execAddIndex_cases x s
  | ldBcd x => exact execLdBcd_cases x s
  | storeRegs x => exact execStoreRegs_cases x s
  | loadRegs x => exact execLoadRegs_cases x s
  | seImm x nn | sneImm x nn | seReg x y | sneReg x y =>
    refine .inl ⟨_, rfl, ?_⟩
    simp [Effect, skipIf, apply_ite NextPc.after, ite_apply]
  | _ => exact .inl ⟨_, rfl, rfl⟩

/-- If an instruction answers a next state, that state is its effect. -/
theorem effect_of_exec {i : Instr} {s t : State} (h : exec i s = .next t) : Effect i s t := by
  obtain ⟨u, hu, he⟩ | ⟨r, hr, _⟩ := exec_cases i s
  · rw [hu] at h
    cases h
    exact he
  · rw [hr] at h
    cases h

/-- If an instruction faults, the record is its own and the state left differs in the fault element only. -/
theorem raises_of_exec {i : Instr} {s t : State} {r : FaultRecord} (h : exec i s = .fault (.raised r t)) :
    Raises i s r ∧ t = s.setFault (some r) := by
  obtain ⟨u, hu, _⟩ | ⟨q, hq, hr⟩ := exec_cases i s
  · rw [hu] at h
    cases h
  · rw [hq] at h
    cases h
    exact ⟨hr, rfl⟩

/-- An opcode the decoder does not support is answered as itself (30_encoding.md R85). -/
theorem decode_unsupported {op w : Word} (h : decode op = .unsupported w) : w = op := by
  unfold decode decodeZ decodeAlu decodeF decodeXY0 at h
  repeat' split at h
  all_goals first | (cases h; rfl) | cases h

/-- Everything a completed step can be: its opcode was fetched, and it is an instruction's effect or the no-op advance. -/
theorem step_next_cases {s t : State} (h : step s = .next t) :
    s.fault = none ∧ ∃ op, fetch s = some op ∧
      ((∃ i, decode op = .instr i ∧ exec i s = .next t) ∨ (decode op = .unsupported op ∧ t = s.setPc (s.pc + 2))) := by
  unfold step at h
  split at h
  · cases h
  · next hf =>
    refine ⟨hf, ?_⟩
    unfold cycle at h
    split at h
    · cases h
    · next op ho =>
      refine ⟨op, ho, ?_⟩
      cases hd : decode op with
      | instr i => exact .inl ⟨i, rfl, by rwa [hd] at h⟩
      | unsupported w =>
        cases decode_unsupported hd
        rw [hd] at h
        cases h
        exact .inr ⟨rfl, rfl⟩

/-- Everything a faulting step can be: a fetch out of range, or the fault of the fetched instruction. -/
theorem step_fault_cases {s t : State} {r : FaultRecord} (h : step s = .fault (.raised r t)) :
    s.fault = none ∧ t = s.setFault (some r) ∧
      ((fetch s = none ∧ r = .fetchFault s.pc) ∨
        ∃ op i, fetch s = some op ∧ decode op = .instr i ∧ Raises i s r) := by
  unfold step at h
  split at h
  · cases h
  · next hf =>
    refine ⟨hf, ?_⟩
    unfold cycle at h
    split at h
    · next hn =>
      cases h
      exact ⟨rfl, .inl ⟨hn, rfl⟩⟩
    · next op ho =>
      cases hd : decode op with
      | instr i =>
        rw [hd] at h
        obtain ⟨hr, ht⟩ := raises_of_exec h
        exact ⟨ht, .inr ⟨op, i, ho, hd, hr⟩⟩
      | unsupported w =>
        rw [hd] at h
        cases h

/-! ### Memory after the two stores -/

/-- Every byte of memory after FX55 completes. -/
theorem storeRegs_read {x : RegIx} {s t : State} (h : exec (.storeRegs x) s = .next t) (hw : s.mem.wf = true) (a : Nat) :
    t.mem.read a = s.byteAfterRegStore x a := by
  obtain ⟨hb, rfl⟩ := effect_of_exec h
  have hl : (s.regsUpTo x).length = x.val + 1 := regsUpTo_length s x
  have hi : s.dataAddr 0 = s.i.toNat := rfl
  rw [hi, transferCount] at hb
  simp only [setPc_mem, setMem_mem, setIndex_mem, hi]
  rw [Memory.read_writeBytes a hw (by omega), hl, State.byteAfterRegStore]
  by_cases hc : s.i.toNat ≤ a ∧ a ≤ s.i.toNat + x.val
  · rw [if_pos (by omega), dif_pos hc, regsUpTo_getD s x (by omega)]
    rfl
  · rw [if_neg (by omega), dif_neg hc]

/-- Every byte of memory after FX33 completes. -/
theorem ldBcd_read {x : RegIx} {s t : State} (h : exec (.ldBcd x) s = .next t) (hw : s.mem.wf = true) (a : Nat) :
    t.mem.read a = s.byteAfterDigitStore x a := by
  obtain ⟨hb, rfl⟩ := effect_of_exec h
  have hl := decimalDigits_length (s.reg x)
  have hi : s.dataAddr 0 = s.i.toNat := rfl
  rw [hi] at hb
  simp only [setPc_mem, setMem_mem, hi]
  rw [Memory.read_writeBytes a hw (by omega), hl, State.byteAfterDigitStore]
  by_cases h0 : a = s.i.toNat
  · subst h0; simp [decimalDigits]
  by_cases h1 : a = s.i.toNat + 1
  · subst h1; simp [decimalDigits]
  by_cases h2 : a = s.i.toNat + 2
  · subst h2; simp [decimalDigits]
  rw [if_neg (by omega), if_neg h0, if_neg h1, if_neg h2]

end Sys2Proof.Machine
end

