-- ==== Sys2Proof/Laws/PerInstr.lean ====
section
/-! SUPPORT. Statements made instruction by instruction. -/

/-- Decoding the word of a well-formed instruction gives it back (30_encoding.md R84, R85). -/
def Sys2Proof.Laws.RoundTrip.Statement (i : Sys2Proof.Instr) : Prop :=
  i.wellFormed = true → Sys2Proof.decode (Sys2Proof.encode i) = .instr i

namespace Sys2Proof.Laws.RoundTrip

theorem formA {f : Nat} (hf : f < 16) {nnn : Word} (h : addressFits nnn = true) :
    fieldFamily (packA f nnn) = f ∧ fieldNNN (packA f nnn) = nnn :=
  ⟨packA_family hf nnn, packA_nnn hf (by simpa [addressFits] using h)⟩

theorem formXK {f : Nat} (hf : f < 16) (x : RegIx) (nn : Byte) :
    fieldFamily (packXK f x nn.toNat) = f ∧ fieldX (packXK f x nn.toNat) = x ∧ fieldNN (packXK f x nn.toNat) = nn :=
  ⟨packXK_family hf x _, packXK_x hf x _, packXK_nn hf x nn⟩

theorem formXY {f : Nat} (hf : f < 16) (x y : RegIx) (n : Nat) :
    fieldFamily (packXYN f x y n) = f ∧ fieldX (packXYN f x y n) = x ∧ fieldY (packXYN f x y n) = y ∧
      fieldN (packXYN f x y n) = n % 0x10 :=
  ⟨packXYN_family hf x y n, packXYN_x hf x y n, packXYN_y hf x y n, packXYN_n hf x y n⟩

theorem formXF {f : Nat} (hf : f < 16) (x : RegIx) (n : Nat) :
    fieldFamily (packXK f x n) = f ∧ fieldX (packXK f x n) = x ∧ (packXK f x n).toNat % 0x100 = n % 0x100 :=
  ⟨packXK_family hf x n, packXK_x hf x n, packXK_low hf x n⟩

theorem cls : Statement .cls := fun _ => rfl
theorem ret : Statement .ret := fun _ => rfl
theorem jp (nnn : Word) : Statement (.jp nnn) := fun h => by
  simp [decode, encode, formA (f := 0x1) (by omega) h]
theorem call (nnn : Word) : Statement (.call nnn) := fun h => by
  simp [decode, encode, formA (f := 0x2) (by omega) h]
theorem seImm (x : RegIx) (nn : Byte) : Statement (.seImm x nn) := fun _ => by
  simp [decode, encode, formXK (f := 0x3) (by omega) x nn]
theorem sneImm (x : RegIx) (nn : Byte) : Statement (.sneImm x nn) := fun _ => by
  simp [decode, encode, formXK (f := 0x4) (by omega) x nn]
theorem seReg (x y : RegIx) : Statement (.seReg x y) := fun _ => by
  simp [decode, decodeXY0, encode, formXY (f := 0x5) (by omega) x y 0x0]
theorem ldImm (x : RegIx) (nn : Byte) : Statement (.ldImm x nn) := fun _ => by
  simp [decode, encode, formXK (f := 0x6) (by omega) x nn]
theorem addImm (x : RegIx) (nn : Byte) : Statement (.addImm x nn) := fun _ => by
  simp [decode, encode, formXK (f := 0x7) (by omega) x nn]
theorem ldReg (x y : RegIx) : Statement (.ldReg x y) := fun _ => by
  simp [decode, decodeAlu, encode, formXY (f := 0x8) (by omega) x y 0x0]
theorem orReg (x y : RegIx) : Statement (.orReg x y) := fun _ => by
  simp [decode, decodeAlu, encode, formXY (f := 0x8) (by omega) x y 0x1]
theorem andReg (x y : RegIx) : Statement (.andReg x y) := fun _ => by
  simp [decode, decodeAlu, encode, formXY (f := 0x8) (by omega) x y 0x2]
theorem xorReg (x y : RegIx) : Statement (.xorReg x y) := fun _ => by
  simp [decode, decodeAlu, encode, formXY (f := 0x8) (by omega) x y 0x3]
theorem addReg (x y : RegIx) : Statement (.addReg x y) := fun _ => by
  simp [decode, decodeAlu, encode, formXY (f := 0x8) (by omega) x y 0x4]
theorem subReg (x y : RegIx) : Statement (.subReg x y) := fun _ => by
  simp [decode, decodeAlu, encode, formXY (f := 0x8) (by omega) x y 0x5]
theorem shrReg (x y : RegIx) : Statement (.shrReg x y) := fun _ => by
  simp [decode, decodeAlu, encode, formXY (f := 0x8) (by omega) x y 0x6]
theorem subnReg (x y : RegIx) : Statement (.subnReg x y) := fun _ => by
  simp [decode, decodeAlu, encode, formXY (f := 0x8) (by omega) x y 0x7]
theorem shlReg (x y : RegIx) : Statement (.shlReg x y) := fun _ => by
  simp [decode, decodeAlu, encode, formXY (f := 0x8) (by omega) x y 0xE]
theorem sneReg (x y : RegIx) : Statement (.sneReg x y) := fun _ => by
  simp [decode, decodeXY0, encode, formXY (f := 0x9) (by omega) x y 0x0]
theorem ldIndex (nnn : Word) : Statement (.ldIndex nnn) := fun h => by
  simp [decode, encode, formA (f := 0xA) (by omega) h]
theorem drw (x y : RegIx) (n : Nat) : Statement (.drw x y n) := fun h => by
  have hn : n ≤ 15 := by simpa [Instr.wellFormed, rowsFit] using h
  simp [decode, encode, formXY (f := 0xD) (by omega) x y n, Nat.mod_eq_of_lt (Nat.lt_succ_of_le hn)]
theorem addIndex (x : RegIx) : Statement (.addIndex x) := fun _ => by
  simp [decode, decodeF, encode, formXF (f := 0xF) (by omega) x 0x1E]
theorem ldBcd (x : RegIx) : Statement (.ldBcd x) := fun _ => by
  simp [decode, decodeF, encode, formXF (f := 0xF) (by omega) x 0x33]
theorem storeRegs (x : RegIx) : Statement (.storeRegs x) := fun _ => by
  simp [decode, decodeF, encode, formXF (f := 0xF) (by omega) x 0x55]
theorem loadRegs (x : RegIx) : Statement (.loadRegs x) := fun _ => by
  simp [decode, decodeF, encode, formXF (f := 0xF) (by omega) x 0x65]

end Sys2Proof.Laws.RoundTrip
end

