-- ==== Sys2Proof/Laws/Transactions.lean ====
section
/-! SUPPORT. What the host's operations can answer, said once. -/

namespace Sys2Proof.Machine

/-- Everything a `load` that succeeds can be. -/
theorem load_next_iff {image : List Byte} {s t : State} :
    load image s = .next t ↔
      s.fault = none ∧ image.length ≤ 3584 ∧ t = s.setMem (s.mem.writeBytes 0x200 image) := by
  cases hf : s.fault with
  | some r => simp [load, hf]
  | none =>
    by_cases hl : 3584 < image.length
    · simp [load, hf, hl, raise_eq]
    · simp [load, hf, hl, Nat.not_lt.mp hl, eq_comm]

/-- Everything a `load` that faults can be. -/
theorem load_fault_iff {image : List Byte} {s t : State} {r : FaultRecord} :
    load image s = .fault (.raised r t) ↔
      s.fault = none ∧ 3584 < image.length ∧ r = .loadFault image.length ∧ t = s.setFault (some r) := by
  cases hf : s.fault with
  | some r => simp [load, hf]
  | none =>
    by_cases hl : 3584 < image.length
    · simp only [load, hf, Config.maxImage, gt_iff_lt, hl, if_true, raise_eq, Host.Outcome.fault.injEq, Fault.raised.injEq,
        true_and]
      constructor
      · rintro ⟨rfl, rfl⟩; exact ⟨rfl, rfl⟩
      · rintro ⟨rfl, rfl⟩; exact ⟨rfl, rfl⟩
    · simp [load, hf, hl]

/-- A `load` keeps memory's canonical form. -/
theorem load_wf {image : List Byte} {s t : State} (h : load image s = .next t) (hw : s.mem.wf = true) : t.mem.wf = true := by
  obtain ⟨_, hl, rfl⟩ := load_next_iff.mp h
  exact Memory.writeBytes_wf hw (by omega)

@[simp] theorem tickTimers_mem (s : State) : (tickTimers s).mem = s.mem := rfl
@[simp] theorem tickTimers_v (s : State) : (tickTimers s).v = s.v := rfl
@[simp] theorem tickTimers_i (s : State) : (tickTimers s).i = s.i := rfl
@[simp] theorem tickTimers_pc (s : State) : (tickTimers s).pc = s.pc := rfl
@[simp] theorem tickTimers_stack (s : State) : (tickTimers s).stack = s.stack := rfl
@[simp] theorem tickTimers_sp (s : State) : (tickTimers s).sp = s.sp := rfl
@[simp] theorem tickTimers_dt (s : State) : (tickTimers s).dt = decrementTimer s.dt := rfl
@[simp] theorem tickTimers_st (s : State) : (tickTimers s).st = decrementTimer s.st := rfl
@[simp] theorem tickTimers_fb (s : State) : (tickTimers s).fb = s.fb := rfl
@[simp] theorem tickTimers_fault (s : State) : (tickTimers s).fault = s.fault := rfl

/-- A timer that is 0 stays 0 (R275). -/
@[simp] theorem decrementTimer_zero : decrementTimer 0 = 0 := rfl

/-- `stepOutput` of a step that completes (R118). -/
theorem stepOutput_next {s t : State} {op : Word} (h : step s = .next t) (hf : fetch s = some op) :
    stepOutput s = some (statusOf (decode op), ⟨s.pc, op, decode op⟩) := by
  rw [stepOutput, h, hf]

@[simp] theorem statusOf_instr (i : Instr) : statusOf (.instr i) = .ok := rfl
@[simp] theorem statusOf_unsupported (op : Word) : statusOf (.unsupported op) = .unsupported op := rfl

end Sys2Proof.Machine
end

