-- ==== Sys2Proof/Tests/Slice0.lean ====
section
/-! SUPPORT. The model's own tests: expected values from spec/ (95_test_vectors.md and the rules' examples), one step each; and the
ill-formed terms. -/

namespace Sys2Proof.Tests

open Sys2Proof.Machine

/-! ## Helpers -/

/-- Reset with registers, I and memory bytes set. -/
def mk (regs : List (RegIx × Byte)) (i : Word := 0) (bytes : List (Nat × Byte) := []) : State :=
  { regs.foldl (fun s r => s.setReg r.1 r.2) State.reset with
    i := i, mem := bytes.foldl (fun m b => m.write b.1 b.2) [] }

/-- The state after one step that fetches `w`. -/
def after (s : State) (w : Nat) : Option State :=
  match step (s.withFetchWord 16 w) with
  | .next t => some t
  | _ => none

/-- What one step that fetches `w` shows of the next state. -/
def see {α : Type} (s : State) (w : Nat) (f : State → α) : Option α := (after s w).map f

/-- The record of a step that faults. -/
def record (s : State) (w : Nat) : Option FaultRecord :=
  match step (s.withFetchWord 16 w) with
  | .fault (.raised r _) => some r
  | _ => none

/-- A row of the framebuffer as the columns that are on. -/
def litIn (s : State) (y : Fin 32) : List Nat := (List.range 64).filter fun x => s.fb.pixel (Fin.ofNat 64 x) y

/-! ## WellFormed: an ill-formed term for each check -/

theorem smoke_jp_address : (Instr.jp 0x1000).wellFormed = false := by decide
theorem smoke_call_address : (Instr.call 0xFFFF).wellFormed = false := by decide
theorem smoke_ldIndex_address : (Instr.ldIndex 0x1000).wellFormed = false := by decide
theorem smoke_drw_rows : (Instr.drw 0 0 16).wellFormed = false := by decide
theorem smoke_edges_accepted :
    (Instr.jp 0xFFF).wellFormed = true ∧ (Instr.drw 15 15 15).wellFormed = true := by decide

/-! ## Decode: every constructor from a word written out by R81 and R84 -/

theorem test_decode_cls : decode 0b0000000011100000#16 = .instr .cls := by decide
theorem test_decode_ret : decode 0b0000000011101110#16 = .instr .ret := by decide
theorem test_decode_jp : decode 0b0001101010111100#16 = .instr (.jp 0xABC) := by decide
theorem test_decode_call : decode 0b0010001000010000#16 = .instr (.call 0x210) := by decide
theorem test_decode_seImm : decode 0b0011001101000010#16 = .instr (.seImm 3 0x42) := by decide
theorem test_decode_sneImm : decode 0b0100001101000010#16 = .instr (.sneImm 3 0x42) := by decide
theorem test_decode_seReg : decode 0b0101000100100000#16 = .instr (.seReg 1 2) := by decide
theorem test_decode_ldImm : decode 0b0110101001111011#16 = .instr (.ldImm 0xA 0x7B) := by decide
theorem test_decode_addImm : decode 0b0111000000000011#16 = .instr (.addImm 0 3) := by decide
theorem test_decode_ldReg : decode 0b1000000100100000#16 = .instr (.ldReg 1 2) := by decide
theorem test_decode_orReg : decode 0b1000000100100001#16 = .instr (.orReg 1 2) := by decide
theorem test_decode_andReg : decode 0b1000000100100010#16 = .instr (.andReg 1 2) := by decide
theorem test_decode_xorReg : decode 0b1000000100100011#16 = .instr (.xorReg 1 2) := by decide
theorem test_decode_addReg : decode 0b1000000100100100#16 = .instr (.addReg 1 2) := by decide
theorem test_decode_subReg : decode 0b1000000100100101#16 = .instr (.subReg 1 2) := by decide
theorem test_decode_shrReg : decode 0b1000000100100110#16 = .instr (.shrReg 1 2) := by decide
theorem test_decode_subnReg : decode 0b1000000100100111#16 = .instr (.subnReg 1 2) := by decide
theorem test_decode_shlReg : decode 0b1000000100101110#16 = .instr (.shlReg 1 2) := by decide
theorem test_decode_sneReg : decode 0b1001000100100000#16 = .instr (.sneReg 1 2) := by decide
theorem test_decode_ldIndex : decode 0b1010001100000000#16 = .instr (.ldIndex 0x300) := by decide
theorem test_decode_drw : decode 0b1101000100101111#16 = .instr (.drw 1 2 15) := by decide
theorem test_decode_addIndex : decode 0b1111001000011110#16 = .instr (.addIndex 2) := by decide
theorem test_decode_ldBcd : decode 0b1111101000110011#16 = .instr (.ldBcd 0xA) := by decide
theorem test_decode_storeRegs : decode 0b1111000101010101#16 = .instr (.storeRegs 1) := by decide
theorem test_decode_loadRegs : decode 0b1111001001100101#16 = .instr (.loadRegs 2) := by decide
/-- V1.5 to V1.11, V3.7, V3.10, V5.18. -/
theorem test_decode_unsupported :
    [0x0000, 0x00E1, 0x0123, 0xB123, 0xC123, 0xE09E, 0xE0A1, 0xF007, 0xF00A, 0xF015, 0xF018, 0xF029, 0xF01F, 0x5121,
      0x912F, 0x8128, 0x812F].all (fun w : Word => decode w == .unsupported w) = true := by decide
theorem test_tableWord : decodeTableWord 16 0xD121 = some (.drw 1 2 1) ∧ decodeTableWord 16 0xB123 = none := by decide
theorem test_assembly :
    disassemble 0xF155 = ("LD", [.atIndex, .reg 1]) ∧ disassemble 0x0000 = ("DW", [.word 0x0000]) := by decide

/-! ## One step per instruction -/

/-- V7.1: clearing leaves VF alone. -/
theorem test_cls : see { mk [(15, 0xAA)] with fb := Framebuffer.clear.setPixel 5 7 true } 0x00E0
    (fun t => (litIn t 7, t.reg 15, t.pc)) = some ([], 0xAA, 0x202) := by decide
/-- V2.5: the return continues 2 past the pushed address. -/
theorem test_ret : see { (mk []) with pc := 0x300, sp := 1, stack := (mk []).stack.set 0 0x210 } 0x00EE
    (fun t => (t.pc, t.sp.val, t.stack[0])) = some (0x212, 0, 0x210) := by decide
/-- V2.6. -/
theorem test_ret_empty : record (mk []) 0x00EE = some (.stackUnderflow 0x200) := by decide
/-- W3. -/
theorem test_jp : see (mk []) 0x1345 (fun t => t.pc) = some 0x345 := by decide
/-- V2.4: the call pushes its own address. -/
theorem test_call : see { (mk []) with pc := 0x210 } 0x2300 (fun t => (t.pc, t.sp.val, t.stack[0])) = some (0x300, 1, 0x210) := by
  decide
/-- V2.8. -/
theorem test_call_full : record { (mk []) with sp := 16 } 0x2345 = some (.stackOverflow 0x200 0x345) := by decide
/-- V3.1, V3.2. -/
theorem test_seImm : see (mk [(3, 0x42)]) 0x3342 (·.pc) = some 0x204 ∧ see (mk [(3, 0x41)]) 0x3342 (·.pc) = some 0x202 := by
  decide
/-- V3.3, V3.4. -/
theorem test_sneImm : see (mk [(3, 0x42)]) 0x4342 (·.pc) = some 0x202 ∧ see (mk []) 0x4342 (·.pc) = some 0x204 := by decide
/-- V3.5, V3.6. -/
theorem test_seReg : see (mk [(1, 7), (2, 7)]) 0x5120 (·.pc) = some 0x204 ∧
    see (mk [(1, 7), (2, 8)]) 0x5120 (·.pc) = some 0x202 := by decide
/-- V3.8, V3.9. -/
theorem test_sneReg : see (mk [(1, 7), (2, 8)]) 0x9120 (·.pc) = some 0x204 ∧
    see (mk [(1, 7), (2, 7)]) 0x9120 (·.pc) = some 0x202 := by decide
/-- V4.1. -/
theorem test_ldImm : see (mk []) 0x6A7B (fun t => (t.reg 0xA, t.pc)) = some (0x7B, 0x202) := by decide
/-- V4.4: no flag change on carry. -/
theorem test_addImm : see (mk [(0, 0xFF), (15, 1)]) 0x7001 (fun t => (t.reg 0, t.reg 15)) = some (0x00, 1) := by decide
/-- V5.1. -/
theorem test_ldReg : see (mk [(1, 0x11), (2, 0x22), (15, 0xAA)]) 0x8120 (fun t => (t.reg 1, t.reg 15)) = some (0x22, 0xAA) := by
  decide
/-- V5.30: VF as an ordinary destination. -/
theorem test_orReg : see (mk [(15, 0x01), (2, 0x10)]) 0x8F21 (fun t => t.reg 15) = some 0x11 := by decide
/-- V5.3. -/
theorem test_andReg : see (mk [(1, 0xF0), (2, 0x3C), (15, 0xAA)]) 0x8122 (fun t => (t.reg 1, t.reg 15)) = some (0x30, 0xAA) := by
  decide
/-- V5.4. -/
theorem test_xorReg : see (mk [(1, 0xFF), (2, 0x0F)]) 0x8123 (fun t => t.reg 1) = some 0xF0 := by decide
/-- W6. -/
theorem test_addReg : see (mk [(0, 0xFF), (1, 0x02)]) 0x8014 (fun t => (t.reg 0, t.reg 15)) = some (0x01, 1) := by decide
/-- V5.23: the flag wins when X = F. -/
theorem test_addReg_vf : see (mk [(15, 0xFF), (2, 0x02)]) 0x8F24 (fun t => t.reg 15) = some 1 := by decide
/-- V5.8. -/
theorem test_subReg : see (mk [(1, 0x03), (2, 0x05)]) 0x8125 (fun t => (t.reg 1, t.reg 15)) = some (0xFE, 1) := by decide
/-- V5.32: Y = F reads the old VF. -/
theorem test_subReg_vf : see (mk [(15, 0x01)]) 0x81F5 (fun t => (t.reg 1, t.reg 15)) = some (0xFF, 1) := by decide
/-- V5.13: Y ignored, VF 0. -/
theorem test_shrReg : see (mk [(1, 0x81), (2, 0xFF), (15, 7)]) 0x8126 (fun t => (t.reg 1, t.reg 15)) = some (0x40, 0) := by decide
/-- V5.10, V5.11. -/
theorem test_subnReg : see (mk [(1, 0x03), (2, 0x05)]) 0x8127 (fun t => (t.reg 1, t.reg 15)) = some (0x02, 0) ∧
    see (mk [(1, 0x05), (2, 0x03)]) 0x8127 (fun t => (t.reg 1, t.reg 15)) = some (0xFE, 1) := by decide
/-- V5.15. -/
theorem test_shlReg : see (mk [(1, 0x81)]) 0x812E (fun t => (t.reg 1, t.reg 15)) = some (0x02, 1) := by decide
/-- V6.1. -/
theorem test_ldIndex : see (mk []) 0xAFFF (fun t => t.i) = some 0x0FFF := by decide
/-- V6.2: no 12-bit mask. -/
theorem test_addIndex : see (mk [(1, 1)] 0x0FFF) 0xF11E (fun t => t.i) = some 0x1000 := by decide
/-- V6.5. -/
theorem test_addIndex_overflow : record (mk [(1, 0xFF)] 0xFF10) 0xF11E = some (.indexOverflow 0x200 0xFF10 0xFF) := by decide
/-- V6.11: the last byte fits exactly; V6.10's digits. -/
theorem test_ldBcd : see (mk [(5, 123)] 0xFFD) 0xF533
    (fun t => (t.mem.read 0xFFD, t.mem.read 0xFFE, t.mem.read 0xFFF, t.i)) = some (1, 2, 3, 0xFFD) := by decide
/-- V6.12. -/
theorem test_ldBcd_range : record (mk [] 0xFFE) 0xF533 = some (.memoryFault 0x200 0xF533 0xFFE 3) := by decide
/-- V6.14. -/
theorem test_storeRegs : see (mk [(0, 1), (1, 2), (2, 3)] 0x300) 0xF255
    (fun t => (t.mem.read 0x300, t.mem.read 0x301, t.mem.read 0x302, t.mem.read 0x303, t.i)) = some (1, 2, 3, 0, 0x303) := by decide
/-- V6.16. -/
theorem test_storeRegs_range : record (mk [] 0xFF1) 0xFF55 = some (.memoryFault 0x200 0xFF55 0xFF1 16) := by decide
/-- V6.17: registers above X are not changed. -/
theorem test_loadRegs : see (mk [(3, 0x77)] 0x300 [(0x300, 9), (0x301, 8), (0x302, 7), (0x303, 6)]) 0xF265
    (fun t => (t.reg 0, t.reg 1, t.reg 2, t.reg 3, t.i)) = some (9, 8, 7, 0x77, 0x303) := by decide
/-- V6.19. -/
theorem test_loadRegs_range : record (mk [] 0x1000) 0xF065 = some (.memoryFault 0x200 0xF065 0x1000 1) := by decide
/-- V7.3 and V7.5 together: both axes wrap. -/
theorem test_drw_wraps : see (mk [(1, 60), (2, 31)] 0x300 [(0x300, 0xFF), (0x301, 0x81)]) 0xD122
    (fun t => (litIn t 31, litIn t 0, t.reg 15)) = some ([0, 1, 2, 3, 60, 61, 62, 63], [3, 60], 0) := by decide
/-- V7.14's position with V7.8's collision: VF is read as x before it is cleared. -/
theorem test_drw_collides : see { mk [(15, 8)] 0x300 [(0x300, 0x81)] with fb := Framebuffer.clear.setPixel 15 0 true } 0xDF21
    (fun t => (litIn t 0, t.reg 15)) = some ([8], 1) := by decide

/-! ## The cycle and the host -/

/-- V1.3. -/
theorem test_fetch_fault : (match step { (mk []) with pc := 0xFFF } with | .fault (.raised r _) => some r | _ => none) =
    some (.fetchFault 0xFFF) := by decide
/-- V1.1: 0xFFE is the highest address that fetches. -/
theorem test_fetch_last : see { (mk []) with pc := 0xFFE } 0x6001 (fun t => (t.reg 0, t.pc)) = some (0x01, 0x1000) := by decide
/-- V5.18: an unsupported opcode, its status and its trace. -/
theorem test_unsupported : stepOutput ((mk [(1, 0x12)]).withFetchWord 16 0x8128) =
    some (.unsupported 0x8128, ⟨0x200, 0x8128, .unsupported 0x8128⟩) := by decide
/-- W1. -/
theorem test_load : (match load [0xAB, 0xCD, 0xEF] State.reset with
    | .next t => some (t.mem.read 0x200, t.mem.read 0x201, t.mem.read 0x202, t.mem.read 0x203, t.pc) | _ => none) =
    some (0xAB, 0xCD, 0xEF, 0x00, 0x200) := by decide
/-- V8.2. -/
theorem test_tick : ((tickTimers { (mk []) with dt := 2 }).dt, (tickTimers { (mk []) with dt := 2 }).st) = (1, 0) := by decide
/-- The fault codes of R261. -/
theorem test_codes : [FaultRecord.loadFault 0, .fetchFault 0, .stackOverflow 0 0, .stackUnderflow 0, .memoryFault 0 0 0 0,
    .indexOverflow 0 0 0].map FaultRecord.code = [1, 2, 3, 4, 5, 6] := by decide

end Sys2Proof.Tests
end

