-- ==== Sys2Proof/Tests/Witnesses.lean ====
section
/-! SUPPORT. For every statement that has hypotheses, a concrete state and operands that meet all of them, at a boundary where
there is one. Each theorem is named after its statement. -/

namespace Sys2Proof.Tests

open Sys2Proof.Machine

/-- A state with no fault whose next step fetches `w`. -/
def fetching (w : Nat) : State := (mk []).withFetchWord 16 w

theorem witness_TableMatchMaskSelectsDecodedRow :
    decode 0x6304 = .instr (.ldImm 3 4) ∧ selects (.ldImm 3 4) 0x6304 = true ∧ selects (.ldImm 1 2) 0x6304 = true ∧
      ∀ i : Instr, selects i 0xB123 = false :=
  ⟨by decide, by decide, by decide, fun i => by cases i <;> simp [selects, tableRow]⟩

theorem witness_UnsupportedSpaceIsExactlyTheListedRanges : decode 0xC123 = .unsupported 0xC123 := by decide

theorem witness_StepRunsTheDecodedInstruction :
    let s := { (mk []) with pc := 0xFFE }.withFetchWord 16 0x6A7B
    s.fault = none ∧ s.pc.toNat + 1 < 4096 ∧
      (0x6A7B#16).toNat = (s.mem.read s.pc.toNat).toNat * 256 + (s.mem.read (s.pc.toNat + 1)).toNat ∧
      decode 0x6A7B = .instr (.ldImm 0xA 0x7B) := by decide

theorem witness_UnsupportedOpcodeOnlyAdvancesPc :
    (fetching 0x8128).fault = none ∧ fetch (fetching 0x8128) = some 0x8128 ∧ decode 0x8128 = .unsupported 0x8128 := by decide

theorem witness_FetchBeyondMemoryFaults :
    ({ (mk []) with pc := 0xFFF } : State).fault = none ∧ 4096 ≤ ({ (mk []) with pc := 0xFFF } : State).pc.toNat + 1 := by decide

theorem witness_FaultedStateHasNoStepAndNoLoad :
    ({ (mk []) with fault := some (.fetchFault 0xFFF) } : State).fault = some (.fetchFault 0xFFF) := by decide

theorem witness_NothingIsRefusedBeforeAFault : (mk []).fault = none := by decide

/-- One state for each kind of line: jump, call, return, taken and not taken skip, and the default advance. -/
theorem witness_ProgramCounterAfterEveryStep :
    (after (mk []) 0x1345).isSome = true ∧ (after (mk []) 0x2345).isSome = true ∧
      (after { (mk []) with sp := 16 } 0x00EE).isSome = true ∧ (after (mk []) 0x3000).isSome = true ∧
      (after (mk []) 0x4000).isSome = true ∧ (after (mk []) 0x5120).isSome = true ∧ (after (mk []) 0x9120).isSome = true ∧
      (after (mk []) 0x00E0).isSome = true ∧ (after (mk []) 0xB123).isSome = true := by decide

/-- A step that completes with an instruction, one with an unsupported opcode, and one that faults. -/
theorem witness_CompletedStepsReportStatusAndTrace :
    (∃ t, step (fetching 0x6A7B) = .next t) ∧ (∃ t, step (fetching 0x5121) = .next t) ∧
      ∀ t, step (fetching 0x00EE) ≠ .next t :=
  ⟨⟨_, rfl⟩, ⟨_, rfl⟩, fun t h => by cases h⟩

theorem witness_JumpSetsPcToExactlyNNN : (0xFFF#16).toNat < 0x1000 := by decide

theorem witness_SelfJumpIsAFixedPointOfStep :
    let s := { (mk []) with pc := 0xFFE }.withFetchWord 16 0x1FFE
    s.fault = none ∧ s.pc.toNat < 0xFFF ∧ s.wordAt s.pc.toNat = BitVec.ofNat 16 (0x1000 + s.pc.toNat) := by decide

theorem witness_CallPushesItsOwnAddress :
    (mk []).sp.val = (0 : Fin 16).val ∧ ({ (mk []) with sp := 15 } : State).sp.val = (15 : Fin 16).val := by decide

theorem witness_ReturnContinuesAfterTheCall :
    ({ (mk []) with sp := 1 } : State).sp.val = (0 : Fin 16).val + 1 ∧
      ({ (mk []) with sp := 16 } : State).sp.val = (15 : Fin 16).val + 1 := by decide

theorem witness_FullAndEmptyStackFault : ({ (mk []) with sp := 16 } : State).sp.val = 16 ∧ (mk []).sp.val = 0 := by decide

/-- The call from a stack with 15 entries, and the state right after it as `m`. -/
theorem witness_CallThenReturnRoundTrip :
    ∃ t, exec (.call 0x300) { (mk []) with sp := 15 } = .next t ∧ t.sp = t.sp ∧
      ∀ k : Fin 16, k.val < t.sp.val → t.stack[k.val] = t.stack[k.val] :=
  ⟨_, rfl, rfl, fun _ _ => rfl⟩

theorem witness_RegisterSkipsCompareAndAdvance : (1 : Fin 16).val ≠ 0 ∧ (15 : Fin 16).val ≠ 0 := by decide

theorem witness_AddSetsSumAndCarry : (14 : RegIx) ≠ 15 := by decide
theorem witness_SubtractionsSetDifferenceAndBorrow : (0 : RegIx) ≠ 15 := by decide
theorem witness_ShiftsSetResultAndFlag : (0 : RegIx) ≠ 15 := by decide
theorem witness_LoadIndexSetsI : (0xFFF#16).toNat < 0x1000 := by decide

theorem witness_AddToIndexIsExact :
    (mk [] 0xFFFF).i.toNat + ((mk [] 0xFFFF).reg 0).toNat ≤ 0xFFFF := by decide

theorem witness_AddToIndexPastFFFFFaults :
    0xFFFF < (mk [(1, 1)] 0xFFFF).i.toNat + ((mk [(1, 1)] 0xFFFF).reg 1).toNat := by decide

theorem witness_DecimalStoreWritesThreeDigits :
    (mk [] 0xFFD [(0xFFD, 7)]).mem.wf = true ∧ (mk [] 0xFFD [(0xFFD, 7)]).dataAddr 0 + 3 ≤ 4096 := by decide

theorem witness_RegisterStoreWritesTheBlock :
    (mk [] 0xFF0).mem.wf = true ∧ (mk [] 0xFF0).dataAddr 0 + ((15 : RegIx).val + 1) ≤ 4096 := by decide

theorem witness_RegisterLoadReadsTheBlock :
    (mk [] 0xFF0).dataAddr 0 + ((15 : RegIx).val + 1) ≤ 4096 ∧ (mk [] 0xFFF).dataAddr 0 + ((0 : RegIx).val + 1) ≤ 4096 := by decide

theorem witness_DataAccessPastMemoryFaults :
    4096 < (mk [] 0xFFE).i.toNat + 3 ∧ 4096 < (mk [] 0xFF1).i.toNat + ((15 : RegIx).val + 1) ∧
      4096 < (mk [] 0x1000).i.toNat + ((0 : RegIx).val + 1) ∧ 0 ≤ 15 ∧ 4096 < (mk [] 0x1000).i.toNat + max 0 1 := by decide

theorem witness_OnlyThreeInstructionsTakeIndexAboveFFF :
    (∃ t, (Instr.addIndex 1).wellFormed = true ∧ exec (.addIndex 1) (mk [(1, 1)] 0xFFF) = .next t ∧
      (mk [(1, 1)] 0xFFF).i.toNat ≤ 0xFFF ∧ 0xFFF < t.i.toNat) ∧
    (∃ t, exec (.storeRegs 15) (mk [] 0xFF0) = .next t) ∧ (∃ t, exec (.loadRegs 15) (mk [] 0xFF0) = .next t) :=
  ⟨⟨_, rfl, rfl, by decide, by decide⟩, ⟨_, rfl⟩, ⟨_, rfl⟩⟩

/-- P6's store at 0x20A with `pc` at the stored word and, across the edge, at its last byte; and a digit store with `pc` one byte
before it. -/
theorem witness_StoredRegistersAreFetchedNext :
    let s := mk [(0, 0x6A), (1, 0x55)] 0x20A
    s.mem.wf = true ∧
      (∃ t, exec (.storeRegs 1) s = .next t ∧ (t.setPc 0x20A).mem = t.mem ∧
        s.byteAfterRegStore 1 0x20A = 0x6A ∧ s.byteAfterRegStore 1 0x20B = 0x55 ∧ s.byteAfterRegStore 1 0x20C = 0) ∧
      (∃ t, exec (.ldBcd 1) s = .next t ∧ (t.setPc 0x209).mem = t.mem ∧
        s.byteAfterDigitStore 1 0x209 = 0 ∧ s.byteAfterDigitStore 1 0x20B = 8 ∧ s.byteAfterDigitStore 1 0x20C = 5) :=
  ⟨by decide, ⟨_, rfl, rfl, by decide, by decide, by decide⟩, ⟨_, rfl, rfl, by decide, by decide, by decide⟩⟩

/-- V7.12, and a row that has a set bit on a set pixel (V7.8) and one that has none (V7.2). -/
theorem witness_DrawXorsTheWrappedSprite :
    (1 ≤ 15 ∧ (mk [] 0xFFF).dataAddr 0 + max 1 1 ≤ 4096) ∧
    (∃ r c : Nat, r < 1 ∧ c < 8 ∧ ((mk [] 0x300 [(0x300, 0x01)]).mem.read ((mk [] 0x300).dataAddr r)).getLsbD (7 - c) = true ∧
      (Framebuffer.clear.setPixel 7 0 true).pixel (Fin.ofNat 64 (0 + c)) (Fin.ofNat 32 (0 + r)) = true) ∧
    (∀ r c : Nat, r < 1 → c < 8 → ((mk [] 0x300 [(0x300, 0xFF)]).mem.read ((mk [] 0x300).dataAddr r)).getLsbD (7 - c) = true →
      (mk []).fb.pixel (Fin.ofNat 64 (0 + c)) (Fin.ofNat 32 (0 + r)) = false) ∧
    (∀ r c : Nat, r < 1 → c < 8 → ¬((63 : Fin 64) = Fin.ofNat 64 (0 + c) ∧ (31 : Fin 32) = Fin.ofNat 32 (0 + r))) :=
  ⟨by decide, ⟨0, 7, by decide⟩, fun _ _ _ _ _ => Framebuffer.pixel_clear _ _, by
    intro r c hr hc h
    have := congrArg Fin.val h.1
    simp only [Fin.val_ofNat] at this
    have e : (63 : Fin 64).val = 63 := rfl
    omega⟩

theorem witness_DrawingTwiceRestoresTheScreen :
    ∃ t u, 1 ≤ 15 ∧ (1 : RegIx) ≠ 15 ∧ (2 : RegIx) ≠ 15 ∧
      exec (.drw 1 2 1) (mk [(1, 60)] 0x300 [(0x300, 0xFF)]) = .next t ∧ exec (.drw 1 2 1) t = .next u :=
  ⟨_, _, by decide, by decide, by decide, rfl, rfl⟩

/-- W1's boundaries: 3584 bytes and none; one byte too many is the witness after this one. -/
theorem witness_LoadPlacesTheImage :
    (mk []).fault = none ∧ (mk []).mem.wf = true ∧ (List.replicate 3584 (0xFF : Byte)).length ≤ 3584 ∧
      ([] : List Byte).length ≤ 3584 :=
  ⟨rfl, rfl, by rw [List.length_replicate], by decide⟩

theorem load_of_too_long_image (s : State) (h : s.fault = none) (image : List Byte) (long : 3584 < image.length) :
    transact (.load image) s =
      .fault (.raised (.loadFault image.length) (s.setFault (some (.loadFault image.length)))) := by
  exact load_fault_iff.mpr ⟨h, long, rfl, rfl⟩

theorem witness_LoadOfTooLongImageFaults :
    (mk []).fault = none ∧ 3584 < (List.replicate 3585 (0xFF : Byte)).length :=
  ⟨rfl, by rw [List.length_replicate]; decide⟩

/-- The invariant with each transaction that completes, and with the two that fault. -/
theorem witness_StepKeepsTheInvariant :
    ((mk []).Inv ∧ (fetching 0x6A7B).Inv ∧ (fetching 0x00EE).Inv) ∧
    (∃ t, transact .step (fetching 0x6A7B) = .next t) ∧ (∃ t r, transact .step (fetching 0x00EE) = .fault (.raised r t)) ∧
    (∃ t, transact (.load [0xAB, 0x00, 0xCD]) (mk []) = .next t) ∧
    (∃ t r, transact (.load (List.replicate 3585 0xFF)) (mk []) = .fault (.raised r t)) ∧
    (∃ t, transact .tickTimers (mk []) = .next t) ∧ ∃ t, transact .new (mk []) = .next t :=
  ⟨⟨⟨by decide, by decide, by decide⟩, ⟨by decide, by decide, by decide⟩, ⟨by decide, by decide, by decide⟩⟩,
    ⟨_, rfl⟩, ⟨_, _, rfl⟩, ⟨_, rfl⟩,
    ⟨_, _, load_of_too_long_image _ rfl _ (by rw [List.length_replicate]; decide)⟩, ⟨_, rfl⟩, ⟨_, rfl⟩⟩

/-- `new`, then `load` of RET, then the step that faults. -/
theorem witness_ReachableStatesMeetTheInvariant :
    ∃ s t r, Reachable s ∧ transact .step s = .fault (.raised r t) ∧ Reachable t := by
  refine ⟨_, _, _, .completes (tr := .load [0x00, 0xEE]) .new rfl, rfl, ?_⟩
  exact .faults (tr := .step) (r := .stackUnderflow 0x200) (.completes (tr := .load [0x00, 0xEE]) .new rfl) rfl

theorem witness_CanonicalMemoriesThatReadAlikeAreEqual :
    Memory.wf [(0x200, 0x60), (0xFFF, 0x01)] = true ∧ Memory.wf ([] : Memory) = true ∧
      Memory.wf [(0x200, 0x00)] = false ∧ Memory.wf [(0x300, 1), (0x200, 1)] = false ∧ Memory.wf [(0x1000, 1)] = false := by decide

/-- Each of the seven instructions that can fault, faulting. -/
theorem witness_EachInstructionRaisesOnlyItsOwnFault :
    (∃ r t, exec .ret (mk []) = .fault (.raised r t)) ∧
    (∃ r t, exec (.call 0x345) { (mk []) with sp := 16 } = .fault (.raised r t)) ∧
    (∃ r t, exec (.drw 1 2 2) (mk [] 0xFFF) = .fault (.raised r t)) ∧
    (∃ r t, exec (.ldBcd 5) (mk [] 0xFFE) = .fault (.raised r t)) ∧
    (∃ r t, exec (.storeRegs 15) (mk [] 0xFF1) = .fault (.raised r t)) ∧
    (∃ r t, exec (.loadRegs 0) (mk [] 0x1000) = .fault (.raised r t)) ∧
    (∃ r t, exec (.addIndex 1) (mk [(1, 0xFF)] 0xFF10) = .fault (.raised r t)) :=
  ⟨⟨_, _, rfl⟩, ⟨_, _, rfl⟩, ⟨_, _, rfl⟩, ⟨_, _, rfl⟩, ⟨_, _, rfl⟩, ⟨_, _, rfl⟩, ⟨_, _, rfl⟩⟩

theorem witness_FaultsChangeOnlyTheFaultElement :
    (∃ r t, transact .step { (mk []) with pc := 0xFFF } = .fault (.raised r t)) ∧
    (∃ r t image, transact (.load image) (mk []) = .fault (.raised r t)) :=
  ⟨⟨_, _, rfl⟩, ⟨_, _, List.replicate 3585 0xFF, load_of_too_long_image _ rfl _ (by rw [List.length_replicate]; decide)⟩⟩

/-- VF as a plain destination, a register below X, the flag, a taken skip, and an instruction that writes no register. -/
theorem witness_EachElementHasOnlyItsNamedWriters :
    (∃ t, exec (.ldImm 15 1) (mk []) = .next t) ∧ (∃ t, exec (.loadRegs 15) (mk []) = .next t) ∧
      (∃ t, exec (.addReg 3 4) (mk []) = .next t) ∧ (∃ t, exec (.seReg 3 4) (mk []) = .next t) ∧
      (∃ t, exec .cls (mk []) = .next t) := ⟨⟨_, rfl⟩, ⟨_, rfl⟩, ⟨_, rfl⟩, ⟨_, rfl⟩, ⟨_, rfl⟩⟩

/-- P2's end state has a stale slot that reset has not. -/
theorem witness_StaleStackSlotsNeverInfluenceAStep :
    SameButStaleSlots (mk []) ((mk []).setStack ((mk []).stack.set 0 0x0204) 0) :=
  ⟨rfl, fun k hk => absurd hk (by simp [mk, State.reset])⟩

theorem witness_ZeroedMemorySlidesToTheFetchFault :
    State.reset.fault = none ∧ State.reset.pc.toNat + 2 * 1792 = 0x1000 ∧
      ∀ a : Nat, State.reset.pc.toNat ≤ a → State.reset.mem.read a = 0 :=
  ⟨rfl, by decide, fun _ _ => rfl⟩

end Sys2Proof.Tests
end

section
/-! PROOFS. The instruction cycle (40_cycle.md): what a step does once its fetch is in range. -/

namespace Sys2Proof.Machine

/-- Without a fault, a step whose fetch is in range is the execution of what the decoder answers (R110). -/
theorem step_eq_execDecoded {s : State} {op : Word} (hs : s.fault = none) (hf : fetch s = some op) :
    step s = execDecoded (decode op) s := by
  simp only [step, hs, cycle, hf]

/-- An unsupported opcode always completes, with the default advance (R117). -/
theorem execDecoded_unsupported (op : Word) (s : State) :
    execDecoded (.unsupported op) s = .next (s.setPc (s.pc + 2)) := complete_eq .next s

theorem onlyPc_setPc (s : State) (w : Word) : OnlyPc s (s.setPc w) :=
  ⟨fun r _ => setPc_reg s w r, setPc_i s w, ⟨setPc_stack s w, setPc_sp s w⟩,
    fun a => congrArg (·.read a) (setPc_mem s w), fun x y => congrArg (·.pixel x y) (setPc_fb s w),
    ⟨setPc_dt s w, setPc_st s w, setPc_fault s w⟩⟩

/-- Settles O6: the next state is `s.setPc (s.pc + 2)`, and the output of a completed step carries the decoder's answer. -/
theorem unsupportedOpcodeOnlyAdvancesPc : Obligations.UnsupportedOpcodeOnlyAdvancesPc := by
  intro s op hs hf hd
  have hstep : step s = .next (s.setPc (s.pc + 2)) := by
    rw [step_eq_execDecoded hs hf, hd, execDecoded_unsupported]
  have hstatus : (stepOutput s).map Prod.fst = some (.unsupported op) := by
    rw [stepOutput_next hstep hf, hd, Option.map_some, statusOf_unsupported]
  exact ⟨_, hstep, setPc_pc s _, onlyPc_setPc s _, hstatus⟩

end Sys2Proof.Machine
end

section
/-! PROOFS. Control flow (41_control_flow.md): jump, call and return, and the skips that compare with a byte. -/

namespace Sys2Proof

/-- Format A of an address in range, as the sum of its fields (R82). -/
theorem packA_of_fits (f : Nat) {nnn : Word} (h : nnn.toNat < 0x1000) :
    packA f nnn = BitVec.ofNat 16 (f * 0x1000 + nnn.toNat) := by
  rw [packA, Nat.mod_eq_of_lt h]

/-- Format XK of a byte, as the sum of its fields (R82). -/
theorem packXK_byte (f : Nat) (x : RegIx) (nn : Byte) :
    packXK f x nn.toNat = BitVec.ofNat 16 (f * 0x1000 + x.val * 0x100 + nn.toNat) := by
  rw [packXK, Nat.mod_eq_of_lt nn.isLt]

theorem decode_jp_word {nnn : Word} (h : nnn.toNat < 0x1000) :
    decode (BitVec.ofNat 16 (0x1000 + nnn.toNat)) = .instr (.jp nnn) :=
  packA_of_fits 0x1 h ▸ Laws.RoundTrip.jp nnn (decide_eq_true h)

theorem decode_seImm_word (x : RegIx) (nn : Byte) :
    decode (BitVec.ofNat 16 (0x3000 + x.val * 0x100 + nn.toNat)) = .instr (.seImm x nn) :=
  packXK_byte 0x3 x nn ▸ Laws.RoundTrip.seImm x nn rfl

theorem decode_sneImm_word (x : RegIx) (nn : Byte) :
    decode (BitVec.ofNat 16 (0x4000 + x.val * 0x100 + nn.toNat)) = .instr (.sneImm x nn) :=
  packXK_byte 0x4 x nn ▸ Laws.RoundTrip.sneImm x nn rfl

namespace Machine

/-- An instruction that can raise no fault at `s` completes there, with its effect. -/
theorem exec_completes {i : Instr} {s : State} (h : ∀ r, ¬ Raises i s r) : ∃ t, exec i s = .next t ∧ Effect i s t :=
  (exec_cases i s).resolve_right fun ⟨r, _, hr⟩ => h r hr

theorem exec_jp (nnn : Word) (s : State) : exec (.jp nnn) s = .next (s.setPc nnn) := by
  obtain ⟨t, ht, rfl⟩ := exec_completes (i := .jp nnn) (s := s) fun _ => id
  exact ht

/-- 3XNN, with the comparison on the values (R136). -/
theorem exec_seImm (x : RegIx) (nn : Byte) (s : State) :
    exec (.seImm x nn) s = .next (s.setPc (if (s.reg x).toNat = nn.toNat then s.pc + 4 else s.pc + 2)) := by
  obtain ⟨t, ht, rfl⟩ := exec_completes (i := .seImm x nn) (s := s) fun _ => id
  rw [ht]
  simp only [BitVec.toNat_inj]

/-- 4XNN, with the comparison on the values (R137). -/
theorem exec_sneImm (x : RegIx) (nn : Byte) (s : State) :
    exec (.sneImm x nn) s = .next (s.setPc (if (s.reg x).toNat = nn.toNat then s.pc + 2 else s.pc + 4)) := by
  obtain ⟨t, ht, rfl⟩ := exec_completes (i := .sneImm x nn) (s := s) fun _ => id
  rw [ht]
  simp only [BitVec.toNat_inj, ne_eq, ite_not]

/-- 00EE with `k + 1` entries on the stack pops slot `k` and keeps every slot (R131). -/
theorem exec_ret_of_sp {s : State} {k : Fin 16} (h : s.sp.val = k.val + 1) :
    exec .ret s = .next ((s.setStack s.stack k.castSucc).setPc (s.stack[k.val] + 2)) := by
  have hnot : ∀ r, ¬ Raises .ret s r := fun r ⟨h0, _⟩ => by omega
  obtain ⟨t, ht, _, rfl⟩ := exec_completes hnot
  rw [ht]
  simp only [h, Nat.add_sub_cancel]
  rfl

/-- Settles O12: the jump's next state is `s.setPc nnn`. -/
theorem jumpSetsPcToExactlyNNN : Obligations.JumpSetsPcToExactlyNNN := by
  intro s nnn
  exact ⟨decode_jp_word, _, exec_jp nnn s, setPc_pc s _, onlyPc_setPc s _⟩

/-- Settles O18: each skip's next state is `s.setPc` of one of the two advances. -/
theorem immediateSkipsCompareAndAdvance : Obligations.ImmediateSkipsCompareAndAdvance := by
  intro s x nn
  exact ⟨decode_seImm_word x nn, decode_sneImm_word x nn,
    ⟨_, exec_seImm x nn s, onlyPc_setPc s _, setPc_pc s _⟩,
    ⟨_, exec_sneImm x nn s, onlyPc_setPc s _, setPc_pc s _⟩⟩

/-- Settles O17: the return pops the slot the call wrote, which holds the call's address, and the call left the slots below it
as they were. -/
theorem callThenReturnRoundTrip : Obligations.CallThenReturnRoundTrip := by
  intro s t m nnn hcall hsp hslots
  obtain ⟨hroom, rfl⟩ := effect_of_exec hcall
  simp only [setPc_sp, setStack_sp, setPc_stack, setStack_stack] at hsp hslots
  have hm : m.sp.val = s.sp.val + 1 := congrArg Fin.val hsp
  have hret := exec_ret_of_sp (k := ⟨s.sp.val, hroom⟩) hm
  have htop : m.stack[s.sp.val] = s.pc := by
    rw [hslots ⟨s.sp.val, hroom⟩ (Nat.lt_succ_self _), Vector.getElem_set_self]
  refine ⟨_, hret, ?_, rfl, fun k hk => ?_⟩
  · rw [setPc_pc, htop]
  · rw [setPc_stack, setStack_stack, hslots k (Nat.lt_succ_of_lt hk), Vector.getElem_set_ne _ _ hk.ne']

end Machine

end Sys2Proof
end

section
/-! PROOFS. Register moves and arithmetic (42_registers_alu.md): the instructions that write VX and no flag. -/

namespace Sys2Proof

/-! ### The words -/

theorem decode_ldImm_word (x : RegIx) (nn : Byte) :
    decode (BitVec.ofNat 16 (0x6000 + x.val * 0x100 + nn.toNat)) = .instr (.ldImm x nn) :=
  packXK_byte 0x6 x nn ▸ Laws.RoundTrip.ldImm x nn rfl

theorem decode_addImm_word (x : RegIx) (nn : Byte) :
    decode (BitVec.ofNat 16 (0x7000 + x.val * 0x100 + nn.toNat)) = .instr (.addImm x nn) :=
  packXK_byte 0x7 x nn ▸ Laws.RoundTrip.addImm x nn rfl

/-- Format XY with its constant digits, family and function nibble, first, as a match column writes them (R82, R84). -/
theorem packXYN_match_first (f : Nat) (x y : RegIx) {n : Nat} (hn : n < 0x10) :
    packXYN f x y n = BitVec.ofNat 16 (f * 0x1000 + n + x.val * 0x100 + y.val * 0x10) := by
  rw [packXYN, Nat.mod_eq_of_lt hn]
  congr 1
  omega

theorem decode_ldReg_word (x y : RegIx) :
    decode (BitVec.ofNat 16 (0x8000 + x.val * 0x100 + y.val * 0x10)) = .instr (.ldReg x y) :=
  packXYN_match_first 0x8 x y (n := 0x0) (by decide) ▸ Laws.RoundTrip.ldReg x y rfl

theorem decode_orReg_word (x y : RegIx) :
    decode (BitVec.ofNat 16 (0x8001 + x.val * 0x100 + y.val * 0x10)) = .instr (.orReg x y) :=
  packXYN_match_first 0x8 x y (n := 0x1) (by decide) ▸ Laws.RoundTrip.orReg x y rfl

theorem decode_andReg_word (x y : RegIx) :
    decode (BitVec.ofNat 16 (0x8002 + x.val * 0x100 + y.val * 0x10)) = .instr (.andReg x y) :=
  packXYN_match_first 0x8 x y (n := 0x2) (by decide) ▸ Laws.RoundTrip.andReg x y rfl

theorem decode_xorReg_word (x y : RegIx) :
    decode (BitVec.ofNat 16 (0x8003 + x.val * 0x100 + y.val * 0x10)) = .instr (.xorReg x y) :=
  packXYN_match_first 0x8 x y (n := 0x3) (by decide) ▸ Laws.RoundTrip.xorReg x y rfl

namespace Machine

/-! ### The frame `OnlyRegs`, update by update -/

theorem OnlyRegs.refl (p : RegIx → Prop) (s : State) : OnlyRegs p s s :=
  ⟨fun _ _ => rfl, rfl, ⟨rfl, rfl⟩, fun _ => rfl, fun _ _ => rfl, ⟨rfl, rfl, rfl⟩⟩

/-- Writing a register inside `p` keeps the frame. -/
theorem OnlyRegs.setReg {p : RegIx → Prop} {s t : State} {x : RegIx} (h : OnlyRegs p s t) (hx : p x) (b : Byte) :
    OnlyRegs p s (t.setReg x b) := by
  obtain ⟨hregs, hrest⟩ := h
  refine ⟨fun r hr => ?_, hrest⟩
  have hne : r ≠ x := fun e => hr (e ▸ hx)
  rw [setReg_reg_other t b hne, hregs r hr]

/-- Moving `pc`, which the frame does not speak of, keeps it. -/
theorem OnlyRegs.setPc {p : RegIx → Prop} {s t : State} (h : OnlyRegs p s t) (w : Word) : OnlyRegs p s (t.setPc w) := h

/-! ### The instructions -/

/-- An instruction whose whole effect is to write `b` to VX and go on completes, and only VX and `pc` change. -/
theorem exec_of_effect_setReg {i : Instr} {s : State} {x : RegIx} {b : Byte} (hr : ∀ r, ¬ Raises i s r)
    (he : ∀ t, Effect i s t → t = (s.setReg x b).setPc (s.pc + 2)) :
    ∃ t, exec i s = .next t ∧ t.reg x = b ∧ t.pc = s.pc + 2 ∧ OnlyRegs (· = x) s t := by
  obtain ⟨t, ht, heff⟩ := exec_completes hr
  obtain rfl := he t heff
  have hframe : OnlyRegs (· = x) s (s.setReg x b) := (OnlyRegs.refl (· = x) s).setReg rfl b
  exact ⟨_, ht, setReg_reg_same s x b, setPc_pc _ _, hframe.setPc _⟩

/-- The byte sum wraps mod 256 (R161). -/
theorem addBytes_toNat (a b : Byte) : (addBytes a b).toNat = (a.toNat + b.toNat) % 256 := by
  rw [addBytes, BitVec.toNat_ofNat, Nat.mod_mod]

/-- Settles O20: each effect is one register write, and the byte 7XNN writes is `addBytes (s.reg x) nn`. -/
theorem loadAndAddImmediateWriteVx : Obligations.LoadAndAddImmediateWriteVx := by
  intro s x nn
  refine ⟨decode_ldImm_word x nn, decode_addImm_word x nn, exec_of_effect_setReg (fun _ => id) (fun _ => id), ?_⟩
  obtain ⟨t, ht, hreg, hpc, hframe⟩ := exec_of_effect_setReg (i := .addImm x nn) (s := s) (fun _ => id) (fun _ => id)
  exact ⟨t, ht, hreg ▸ addBytes_toNat (s.reg x) nn, hpc, hframe⟩

/-- Settles O21: each effect is one register write, of a byte computed from the registers before it. -/
theorem copyAndLogicWriteVx : Obligations.CopyAndLogicWriteVx := by
  intro s x y
  exact ⟨decode_ldReg_word x y, decode_orReg_word x y, decode_andReg_word x y, decode_xorReg_word x y,
    exec_of_effect_setReg (fun _ => id) (fun _ => id), exec_of_effect_setReg (fun _ => id) (fun _ => id),
    exec_of_effect_setReg (fun _ => id) (fun _ => id), exec_of_effect_setReg (fun _ => id) (fun _ => id)⟩

end Machine

end Sys2Proof
end

section
/-! PROOFS. The index register (43_index_memory.md): ANNN, and the frame of an instruction that writes only I and `pc`. -/

namespace Sys2Proof

theorem decode_ldIndex_word {nnn : Word} (h : nnn.toNat < 0x1000) :
    decode (BitVec.ofNat 16 (0xA000 + nnn.toNat)) = .instr (.ldIndex nnn) :=
  packA_of_fits 0xA h ▸ Laws.RoundTrip.ldIndex nnn (decide_eq_true h)

namespace Machine

theorem exec_ldIndex (nnn : Word) (s : State) : exec (.ldIndex nnn) s = .next ((s.setIndex nnn).setPc (s.pc + 2)) := by
  obtain ⟨t, ht, rfl⟩ := exec_completes (i := .ldIndex nnn) (s := s) fun _ => id
  exact ht

/-- Writing I and moving `pc` keeps every other element: I is in none of these frames, so they hold as from `s.setIndex w`. -/
theorem frame_setIndex_setPc (s : State) (w p : Word) :
    SameRegsBut (fun _ => False) s ((s.setIndex w).setPc p) ∧ SameStack s ((s.setIndex w).setPc p) ∧
      SameMem s ((s.setIndex w).setPc p) ∧ SameDisplay s ((s.setIndex w).setPc p) ∧
      SameTimersFault s ((s.setIndex w).setPc p) := by
  obtain ⟨hregs, _, hrest⟩ := onlyPc_setPc (s.setIndex w) p
  exact ⟨hregs, hrest⟩

/-- Settles O25: the next state is `s.setIndex nnn` with `pc` advanced, so I is the whole word NNN whatever it held before. -/
theorem loadIndexSetsI : Obligations.LoadIndexSetsI := by
  intro s nnn
  exact ⟨decode_ldIndex_word, _, exec_ldIndex nnn s, setIndex_i s nnn, setPc_pc _ _, frame_setIndex_setPc s nnn _⟩

end Machine

end Sys2Proof
end

section
/-! PROOFS. The display (44_display.md): 00E0, and the frame of an instruction that writes only the framebuffer and `pc`. -/

namespace Sys2Proof

theorem decode_cls_word : decode 0x00E0 = .instr .cls := Laws.RoundTrip.cls rfl

namespace Machine

theorem exec_cls (s : State) : exec .cls s = .next ((s.setFb Framebuffer.clear).setPc (s.pc + 2)) := by
  obtain ⟨t, ht, rfl⟩ := exec_completes (i := .cls) (s := s) fun _ => id
  exact ht

/-- Writing the framebuffer and moving `pc` keeps every other element: the framebuffer is in none of these frames, so they hold
as from `s.setFb fb`. -/
theorem frame_setFb_setPc (s : State) (fb : Framebuffer) (p : Word) :
    SameRegsBut (fun _ => False) s ((s.setFb fb).setPc p) ∧ ((s.setFb fb).setPc p).i = s.i ∧
      SameStack s ((s.setFb fb).setPc p) ∧ SameMem s ((s.setFb fb).setPc p) ∧
      SameTimersFault s ((s.setFb fb).setPc p) := by
  obtain ⟨hregs, hi, hstack, hmem, _, htimers⟩ := onlyPc_setPc (s.setFb fb) p
  exact ⟨hregs, hi, hstack, hmem, htimers⟩

/-- Settles O34: the next state is `s.setFb Framebuffer.clear` with `pc` advanced, and every pixel of the clear framebuffer
is 0. -/
theorem clearScreenZeroesEveryPixel : Obligations.ClearScreenZeroesEveryPixel := by
  refine ⟨decode_cls_word, fun s => ⟨_, exec_cls s, fun x y => ?_, setPc_pc _ _, frame_setFb_setPc s _ _⟩⟩
  rw [setPc_fb, setFb_fb, Framebuffer.pixel_clear]

end Machine

end Sys2Proof
end

section
/-! PROOFS. The reset state (70_reset_and_hazards.md): what each element reads as after `new()`. -/

namespace Sys2Proof.Machine

/-- The empty memory lists no address, so each one reads as `Memory.blank` (R58). -/
@[simp] theorem reset_mem_read (a : Nat) : State.reset.mem.read a = 0 := rfl

@[simp] theorem reset_reg (r : RegIx) : State.reset.reg r = 0 := Vector.getElem_replicate r.isLt

@[simp] theorem reset_stack_slot (k : Fin 16) : State.reset.stack[k.val] = 0 := Vector.getElem_replicate k.isLt

/-- The framebuffer of `new()` is the one 00E0 leaves (R231, R290). -/
theorem reset_fb : State.reset.fb = Framebuffer.clear := rfl

@[simp] theorem reset_pixel (x : Fin 64) (y : Fin 32) : State.reset.fb.pixel x y = false := by
  rw [reset_fb, Framebuffer.pixel_clear]

/-- Settles O40: the indexed elements by what they read as at every index, the others by the field `new()` gives them. -/
theorem resetZeroesEverythingButPc : Obligations.ResetZeroesEverythingButPc :=
  ⟨reset_mem_read, reset_reg, rfl, reset_stack_slot, rfl, rfl, rfl, reset_pixel, rfl, rfl⟩

end Sys2Proof.Machine
end

section
/-! PROOFS. Decoder and encoder (30_encoding.md): each row packs the fields it reads, and what no row reads is unsupported. -/

namespace Sys2Proof

/-! ### A word is packed from its own fields -/

theorem packA_fields {op : Word} {f : Nat} (hf : fieldFamily op = f) : packA f (fieldNNN op) = op := by
  apply BitVec.eq_of_toNat_eq
  rw [fieldFamily] at hf
  rw [packA_toNat (by omega), fieldNNN, BitVec.toNat_ofNat]
  omega

/-- Format XK with any number that has the word's low byte, a constant of the row or the field NN. -/
theorem packXK_fields {op : Word} {f n : Nat} (hf : fieldFamily op = f) (hn : op.toNat % 0x100 = n) :
    packXK f (fieldX op) n = op := by
  apply BitVec.eq_of_toNat_eq
  rw [fieldFamily] at hf
  rw [packXK_toNat (by omega), fieldX, Fin.val_ofNat]
  omega

theorem fieldNN_toNat (op : Word) : op.toNat % 0x100 = (fieldNN op).toNat := by
  rw [fieldNN, BitVec.toNat_ofNat]

theorem packXYN_fields {op : Word} {f n : Nat} (hf : fieldFamily op = f) (hn : fieldN op = n) :
    packXYN f (fieldX op) (fieldY op) n = op := by
  apply BitVec.eq_of_toNat_eq
  rw [fieldFamily] at hf
  rw [fieldN] at hn
  rw [packXYN_toNat (by omega), fieldX, fieldY, Fin.val_ofNat, Fin.val_ofNat]
  omega

/-! ### Encoding what was decoded -/

variable {op : Word} {i : Instr}

theorem encode_of_decodeZ (h : decodeZ op = .instr i) : encode i = op := by
  unfold decodeZ at h
  split at h
  · cases h
    exact Eq.symm ‹_›
  · split at h <;> cases h
    exact Eq.symm ‹_›

theorem encode_of_decodeAlu (hf : fieldFamily op = 0x8) (h : decodeAlu op = .instr i) : encode i = op := by
  unfold decodeAlu at h
  split at h <;> cases h <;> exact packXYN_fields hf ‹_›

theorem encode_of_decodeF (hf : fieldFamily op = 0xF) (h : decodeF op = .instr i) : encode i = op := by
  unfold decodeF at h
  split at h <;> cases h <;> exact packXK_fields hf ‹_›

theorem encode_of_decodeXY0 {j : Instr} (hj : fieldN op = 0 → encode j = op) (h : decodeXY0 op j = .instr i) :
    encode i = op := by
  unfold decodeXY0 at h
  split at h <;> cases h
  exact hj ‹_›

/-- The word of a decoded instruction is the opcode it was decoded from: each row packs the fields its format reads. -/
theorem encode_of_decode (h : decode op = .instr i) : encode i = op := by
  unfold decode at h
  split at h
  case h_1 => exact encode_of_decodeZ h
  case h_6 hf => exact encode_of_decodeXY0 (packXYN_fields hf) h
  case h_9 hf => exact encode_of_decodeAlu hf h
  case h_10 hf => exact encode_of_decodeXY0 (packXYN_fields hf) h
  case h_13 hf => exact encode_of_decodeF hf h
  case h_14 => cases h
  case h_2 hf | h_3 hf | h_11 hf =>
    cases h
    exact packA_fields hf
  case h_4 hf | h_5 hf | h_7 hf | h_8 hf =>
    cases h
    exact packXK_fields hf (fieldNN_toNat op)
  case h_12 hf =>
    cases h
    exact packXYN_fields hf rfl

/-- Decoding the word of a well-formed instruction gives it back, row by row. -/
theorem decode_encode (hi : i.wellFormed = true) : decode (encode i) = .instr i := by
  cases i with
  | cls => exact Laws.RoundTrip.cls hi
  | ret => exact Laws.RoundTrip.ret hi
  | jp nnn => exact Laws.RoundTrip.jp nnn hi
  | call nnn => exact Laws.RoundTrip.call nnn hi
  | seImm x nn => exact Laws.RoundTrip.seImm x nn hi
  | sneImm x nn => exact Laws.RoundTrip.sneImm x nn hi
  | seReg x y => exact Laws.RoundTrip.seReg x y hi
  | ldImm x nn => exact Laws.RoundTrip.ldImm x nn hi
  | addImm x nn => exact Laws.RoundTrip.addImm x nn hi
  | ldReg x y => exact Laws.RoundTrip.ldReg x y hi
  | orReg x y => exact Laws.RoundTrip.orReg x y hi
  | andReg x y => exact Laws.RoundTrip.andReg x y hi
  | xorReg x y => exact Laws.RoundTrip.xorReg x y hi
  | addReg x y => exact Laws.RoundTrip.addReg x y hi
  | subReg x y => exact Laws.RoundTrip.subReg x y hi
  | shrReg x y => exact Laws.RoundTrip.shrReg x y hi
  | subnReg x y => exact Laws.RoundTrip.subnReg x y hi
  | shlReg x y => exact Laws.RoundTrip.shlReg x y hi
  | sneReg x y => exact Laws.RoundTrip.sneReg x y hi
  | ldIndex nnn => exact Laws.RoundTrip.ldIndex nnn hi
  | drw x y n => exact Laws.RoundTrip.drw x y n hi
  | addIndex x => exact Laws.RoundTrip.addIndex x hi
  | ldBcd x => exact Laws.RoundTrip.ldBcd x hi
  | storeRegs x => exact Laws.RoundTrip.storeRegs x hi
  | loadRegs x => exact Laws.RoundTrip.loadRegs x hi

/-- Settles O1: the decoder packs the fields it reads (`encode_of_decode`), and reads the fields the encoder packs
(`decode_encode`). -/
theorem decodeIffWellFormedAndEncodes : Obligations.DecodeIffWellFormedAndEncodes := by
  intro op i
  constructor
  · intro h
    exact ⟨decode_wellFormed h, encode_of_decode h⟩
  · rintro ⟨hi, rfl⟩
    exact decode_encode hi

/-- Settles O4: thirteen closed words, each decoded by evaluation. -/
theorem printedWordsDecode : Obligations.PrintedWordsDecode := by
  unfold Obligations.PrintedWordsDecode
  decide

/-! ### The unsupported opcodes -/

theorem decodeZ_unsupported_iff : decodeZ op = .unsupported op ↔ op.toNat ≠ 0x00E0 ∧ op.toNat ≠ 0x00EE := by
  rw [decodeZ]
  split
  · exact iff_of_false nofun (by bv_omega)
  · split
    · exact iff_of_false nofun (by bv_omega)
    · exact iff_of_true rfl (by bv_omega)

theorem decodeXY0_unsupported_iff : decodeXY0 op i = .unsupported op ↔ op.toNat % 0x10 ≠ 0 := by
  rw [decodeXY0, fieldN]
  split
  · exact iff_of_false nofun (by omega)
  · exact iff_of_true rfl ‹_›

theorem decodeAlu_unsupported_iff :
    decodeAlu op = .unsupported op ↔ 0x8 ≤ op.toNat % 0x10 ∧ op.toNat % 0x10 ≠ 0xE := by
  rw [decodeAlu, fieldN]
  split
  case h_10 => exact iff_of_true rfl (by simp only [imp_false] at *; omega)
  all_goals exact iff_of_false nofun (by omega)

theorem decodeF_unsupported_iff :
    decodeF op = .unsupported op ↔
      op.toNat % 0x100 ≠ 0x1E ∧ op.toNat % 0x100 ≠ 0x33 ∧ op.toNat % 0x100 ≠ 0x55 ∧ op.toNat % 0x100 ≠ 0x65 := by
  rw [decodeF]
  split
  case h_5 => exact iff_of_true rfl ⟨‹_›, ‹_›, ‹_›, ‹_›⟩
  all_goals exact iff_of_false nofun (by omega)

/-- Settles O3: each family's unsupported words are read off its own part of the decoder. -/
theorem unsupportedSpaceIsExactlyTheListedRanges : Obligations.UnsupportedSpaceIsExactlyTheListedRanges := by
  intro op
  refine ⟨?_, fun w => Machine.decode_unsupported⟩
  simp only [List.mem_cons, List.not_mem_nil, or_false]
  unfold decode fieldFamily
  split
  case h_1 => rw [decodeZ_unsupported_iff]; omega
  case h_6 | h_10 => rw [decodeXY0_unsupported_iff]; omega
  case h_9 => rw [decodeAlu_unsupported_iff]; omega
  case h_13 => rw [decodeF_unsupported_iff]; omega
  case h_14 => exact iff_of_true rfl (by simp only [imp_false] at *; omega)
  all_goals exact iff_of_false nofun (by omega)

end Sys2Proof
end

section
/-! PROOFS. The opcode table's match and mask columns (30_encoding.md R84): a row selects the words that hold its constants. -/

namespace Sys2Proof

/-- What is constant in the words of a row: the family digit and, below it, the low `width` bits. -/
structure RowConstants where
  family : Nat
  width : Nat
  low : Nat

/-- The constants of an instruction's row; `tableRow_eq` ties them to the table. -/
def rowConstants : Instr → RowConstants
  | .cls => ⟨0x0, 12, 0x0E0⟩
  | .ret => ⟨0x0, 12, 0x0EE⟩
  | .jp _ => ⟨0x1, 0, 0⟩
  | .call _ => ⟨0x2, 0, 0⟩
  | .seImm _ _ => ⟨0x3, 0, 0⟩
  | .sneImm _ _ => ⟨0x4, 0, 0⟩
  | .seReg _ _ => ⟨0x5, 4, 0x0⟩
  | .ldImm _ _ => ⟨0x6, 0, 0⟩
  | .addImm _ _ => ⟨0x7, 0, 0⟩
  | .ldReg _ _ => ⟨0x8, 4, 0x0⟩
  | .orReg _ _ => ⟨0x8, 4, 0x1⟩
  | .andReg _ _ => ⟨0x8, 4, 0x2⟩
  | .xorReg _ _ => ⟨0x8, 4, 0x3⟩
  | .addReg _ _ => ⟨0x8, 4, 0x4⟩
  | .subReg _ _ => ⟨0x8, 4, 0x5⟩
  | .shrReg _ _ => ⟨0x8, 4, 0x6⟩
  | .subnReg _ _ => ⟨0x8, 4, 0x7⟩
  | .shlReg _ _ => ⟨0x8, 4, 0xE⟩
  | .sneReg _ _ => ⟨0x9, 4, 0x0⟩
  | .ldIndex _ => ⟨0xA, 0, 0⟩
  | .drw _ _ _ => ⟨0xD, 0, 0⟩
  | .addIndex _ => ⟨0xF, 8, 0x1E⟩
  | .ldBcd _ => ⟨0xF, 8, 0x33⟩
  | .storeRegs _ => ⟨0xF, 8, 0x55⟩
  | .loadRegs _ => ⟨0xF, 8, 0x65⟩

theorem tableRow_eq (i : Instr) :
    tableRow i = (BitVec.ofNat 16 ((rowConstants i).family * 0x1000 + (rowConstants i).low),
      BitVec.ofNat 16 (0xF000 + (2 ^ (rowConstants i).width - 1))) := by
  cases i <;> simp only [tableRow, rowConstants] <;> decide

theorem rowConstants_bounds (i : Instr) :
    (rowConstants i).family < 16 ∧ (rowConstants i).width ≤ 12 ∧ (rowConstants i).low < 2 ^ (rowConstants i).width := by
  cases i <;> simp only [rowConstants] <;> decide

/-- A mask keeps the family digit and the low `k` bits. -/
theorem and_mask (op : Word) {k : Nat} (hk : k ≤ 12) :
    op.toNat &&& (0xF000 + (2 ^ k - 1)) = fieldFamily op * 0x1000 + op.toNat % 2 ^ k := by
  have hpow : 2 ^ k ≤ 2 ^ 12 := Nat.pow_le_pow_right (by decide) hk
  have hpos : 0 < 2 ^ k := Nat.two_pow_pos k
  have hhigh : (op.toNat &&& (0xF000 + (2 ^ k - 1))) / 2 ^ 12 = op.toNat / 2 ^ 12 := by
    rw [Nat.and_div_two_pow, show (0xF000 + (2 ^ k - 1)) / 2 ^ 12 = 2 ^ 4 - 1 by omega, Nat.and_two_pow_sub_one_eq_mod]
    omega
  have hlow : (op.toNat &&& (0xF000 + (2 ^ k - 1))) % 2 ^ 12 = op.toNat % 2 ^ k := by
    rw [Nat.and_mod_two_pow, show (0xF000 + (2 ^ k - 1)) % 2 ^ 12 = 2 ^ k - 1 by omega, Nat.and_two_pow_sub_one_eq_mod,
      Nat.mod_mod_of_dvd _ (Nat.pow_dvd_pow 2 hk)]
  rw [fieldFamily]
  omega

/-- A row selects the opcodes that hold its constants. -/
theorem selects_iff {i : Instr} {op : Word} :
    selects i op = true ↔
      fieldFamily op = (rowConstants i).family ∧ op.toNat % 2 ^ (rowConstants i).width = (rowConstants i).low := by
  obtain ⟨hf, hk, hlow⟩ := rowConstants_bounds i
  have hpow : 2 ^ (rowConstants i).width ≤ 2 ^ 12 := Nat.pow_le_pow_right (by decide) hk
  have hpos : 0 < 2 ^ (rowConstants i).width := Nat.two_pow_pos _
  have hmod : op.toNat % 2 ^ (rowConstants i).width < 2 ^ (rowConstants i).width := Nat.mod_lt _ hpos
  rw [selects, beq_iff_eq, tableRow_eq, ← BitVec.toNat_inj, BitVec.toNat_and, BitVec.toNat_ofNat, BitVec.toNat_ofNat,
    Nat.mod_eq_of_lt (a := 0xF000 + _) (by omega), and_mask op hk,
    Nat.mod_eq_of_lt (a := (rowConstants i).family * 0x1000 + _) (by omega)]
  omega

/-- The word of an instruction holds the constants of its row. -/
theorem selects_encode (i : Instr) : selects i (encode i) = true := by
  rw [selects_iff]
  cases i with
  | cls | ret => exact ⟨rfl, rfl⟩
  | jp nnn | call nnn | ldIndex nnn => exact ⟨packA_family (by decide) nnn, Nat.mod_one _⟩
  | seImm x nn | sneImm x nn | ldImm x nn | addImm x nn => exact ⟨packXK_family (by decide) x _, Nat.mod_one _⟩
  | seReg x y | sneReg x y | ldReg x y | orReg x y | andReg x y | xorReg x y | addReg x y | subReg x y | shrReg x y
  | subnReg x y | shlReg x y => exact ⟨packXYN_family (by decide) x y _, packXYN_n (by decide) x y _⟩
  | drw x y n => exact ⟨packXYN_family (by decide) x y n, Nat.mod_one _⟩
  | addIndex x | ldBcd x | storeRegs x | loadRegs x =>
    exact ⟨packXK_family (by decide) x _, packXK_low (by decide) x _⟩

/-- An opcode that a row selects is the word of a well-formed instruction of the row, with the operands of its own fields. -/
theorem exists_encode_of_selects {i : Instr} {op : Word} (h : selects i op = true) :
    ∃ j : Instr, tableRow j = tableRow i ∧ j.wellFormed = true ∧ encode j = op := by
  obtain ⟨hf, hn⟩ := selects_iff.mp h
  cases i with
  | cls => exact ⟨.cls, rfl, rfl, (beq_iff_eq.mp h).symm.trans (BitVec.and_allOnes (x := op))⟩
  | ret => exact ⟨.ret, rfl, rfl, (beq_iff_eq.mp h).symm.trans (BitVec.and_allOnes (x := op))⟩
  | jp => exact ⟨.jp (fieldNNN op), rfl, fieldNNN_fits op, packA_fields hf⟩
  | call => exact ⟨.call (fieldNNN op), rfl, fieldNNN_fits op, packA_fields hf⟩
  | ldIndex => exact ⟨.ldIndex (fieldNNN op), rfl, fieldNNN_fits op, packA_fields hf⟩
  | seImm => exact ⟨.seImm (fieldX op) (fieldNN op), rfl, rfl, packXK_fields hf (fieldNN_toNat op)⟩
  | sneImm => exact ⟨.sneImm (fieldX op) (fieldNN op), rfl, rfl, packXK_fields hf (fieldNN_toNat op)⟩
  | ldImm => exact ⟨.ldImm (fieldX op) (fieldNN op), rfl, rfl, packXK_fields hf (fieldNN_toNat op)⟩
  | addImm => exact ⟨.addImm (fieldX op) (fieldNN op), rfl, rfl, packXK_fields hf (fieldNN_toNat op)⟩
  | seReg => exact ⟨.seReg (fieldX op) (fieldY op), rfl, rfl, packXYN_fields hf hn⟩
  | sneReg => exact ⟨.sneReg (fieldX op) (fieldY op), rfl, rfl, packXYN_fields hf hn⟩
  | ldReg => exact ⟨.ldReg (fieldX op) (fieldY op), rfl, rfl, packXYN_fields hf hn⟩
  | orReg => exact ⟨.orReg (fieldX op) (fieldY op), rfl, rfl, packXYN_fields hf hn⟩
  | andReg => exact ⟨.andReg (fieldX op) (fieldY op), rfl, rfl, packXYN_fields hf hn⟩
  | xorReg => exact ⟨.xorReg (fieldX op) (fieldY op), rfl, rfl, packXYN_fields hf hn⟩
  | addReg => exact ⟨.addReg (fieldX op) (fieldY op), rfl, rfl, packXYN_fields hf hn⟩
  | subReg => exact ⟨.subReg (fieldX op) (fieldY op), rfl, rfl, packXYN_fields hf hn⟩
  | shrReg => exact ⟨.shrReg (fieldX op) (fieldY op), rfl, rfl, packXYN_fields hf hn⟩
  | subnReg => exact ⟨.subnReg (fieldX op) (fieldY op), rfl, rfl, packXYN_fields hf hn⟩
  | shlReg => exact ⟨.shlReg (fieldX op) (fieldY op), rfl, rfl, packXYN_fields hf hn⟩
  | drw => exact ⟨.drw (fieldX op) (fieldY op) (fieldN op), rfl, fieldN_fits op, packXYN_fields hf rfl⟩
  | addIndex => exact ⟨.addIndex (fieldX op), rfl, rfl, packXK_fields hf hn⟩
  | ldBcd => exact ⟨.ldBcd (fieldX op), rfl, rfl, packXK_fields hf hn⟩
  | storeRegs => exact ⟨.storeRegs (fieldX op), rfl, rfl, packXK_fields hf hn⟩
  | loadRegs => exact ⟨.loadRegs (fieldX op), rfl, rfl, packXK_fields hf hn⟩

theorem selects_of_decode {op : Word} {i : Instr} (h : decode op = .instr i) : selects i op = true := by
  rw [← encode_of_decode h]
  exact selects_encode i

theorem decode_of_selects {op : Word} {i : Instr} (h : selects i op = true) :
    ∃ j, decode op = .instr j ∧ tableRow j = tableRow i := by
  obtain ⟨j, hrow, hj, rfl⟩ := exists_encode_of_selects h
  exact ⟨j, decode_encode hj, hrow⟩

/-- Settles O2: a decoded opcode holds its row's constants, and an opcode that holds a row's constants is a word of that row; so
rows
that select one opcode are the row it decodes to. -/
theorem tableMatchMaskSelectsDecodedRow : Obligations.TableMatchMaskSelectsDecodedRow := by
  refine ⟨fun op i => selects_of_decode, fun op i j hi hj => ?_, fun op i => decode_of_selects, fun op h => ?_⟩
  · obtain ⟨k, hk, hki⟩ := decode_of_selects hi
    obtain ⟨l, hl, hlj⟩ := decode_of_selects hj
    cases hk.symm.trans hl
    rw [← hki, hlj]
  · cases hd : decode op with
    | instr i => exact absurd (selects_of_decode hd) (by rw [h i]; nofun)
    | unsupported w => rw [Machine.decode_unsupported hd]

end Sys2Proof
end

section
/-! PROOFS. `exec` read both ways: it answers a next state exactly when that state is the instruction's effect, and a fault
exactly when the instruction raises it. -/

namespace Sys2Proof.Machine

/-- The conditions of the two are disjoint. -/
theorem not_raises_of_effect {i : Instr} {s t : State} {r : FaultRecord} (he : Effect i s t) : ¬ Raises i s r := by
  cases i with
  | ret | call | drw | addIndex | ldBcd | storeRegs | loadRegs =>
    obtain ⟨hok, _⟩ := he
    rintro ⟨hbad, _⟩
    omega
  | _ => exact id

theorem effect_unique {i : Instr} {s t u : State} (ht : Effect i s t) (hu : Effect i s u) : t = u := by
  cases i with
  | drw =>
    obtain ⟨_, _, rfl, rfl⟩ := ht
    obtain ⟨_, _, rfl, rfl⟩ := hu
    rfl
  | ret | call | addIndex | ldBcd | storeRegs | loadRegs =>
    obtain ⟨_, rfl⟩ := ht
    obtain ⟨_, rfl⟩ := hu
    rfl
  | _ => exact Eq.trans ht (Eq.symm hu)

theorem raises_unique {i : Instr} {s : State} {q r : FaultRecord} (hq : Raises i s q) (hr : Raises i s r) : q = r := by
  cases i with
  | ret | call | drw | addIndex | ldBcd | storeRegs | loadRegs =>
    obtain ⟨_, rfl⟩ := hq
    obtain ⟨_, rfl⟩ := hr
    rfl
  | _ => exact hq.elim

theorem exec_of_effect {i : Instr} {s t : State} (h : Effect i s t) : exec i s = .next t := by
  obtain ⟨u, hu, he⟩ := exec_completes fun r => not_raises_of_effect (r := r) h
  rw [hu, effect_unique he h]

theorem exec_of_raises {i : Instr} {s : State} {r : FaultRecord} (h : Raises i s r) :
    exec i s = .fault (.raised r (s.setFault (some r))) := by
  obtain ⟨_, _, he⟩ | ⟨q, hq, hr⟩ := exec_cases i s
  · exact absurd h (not_raises_of_effect he)
  · rw [hq, raise_eq, raises_unique hr h]

theorem exec_ne_refused (i : Instr) (s : State) (q : Refusal) : exec i s ≠ .refused q := by
  obtain ⟨_, h, _⟩ | ⟨_, h, _⟩ := exec_cases i s <;> rw [h] <;> nofun

/-! ### The step -/

theorem step_of_fault {s : State} {r : FaultRecord} (h : s.fault = some r) : step s = .refused (.stepAfterFault r) := by
  simp only [step, h]

theorem step_of_fetch_none {s : State} (hs : s.fault = none) (hf : fetch s = none) :
    step s = .fault (.raised (.fetchFault s.pc) (s.setFault (some (.fetchFault s.pc)))) := by
  simp only [step, hs, cycle, hf, raise_eq]

theorem step_of_instr {s : State} {op : Word} {i : Instr} (hs : s.fault = none) (hf : fetch s = some op)
    (hd : decode op = .instr i) : step s = exec i s := by
  rw [step_eq_execDecoded hs hf, hd, execDecoded]

theorem step_of_unsupported {s : State} {op w : Word} (hs : s.fault = none) (hf : fetch s = some op)
    (hd : decode op = .unsupported w) : step s = .next (s.setPc (s.pc + 2)) := by
  rw [step_eq_execDecoded hs hf, hd, execDecoded_unsupported]

end Sys2Proof.Machine
end

section
/-! PROOFS. Which instructions can write each element of the state (10_state.md), element by element. -/

namespace Sys2Proof.Machine

variable {i : Instr} {s t : State}

theorem fb_of_effect (h : Effect i s t) : t.fb = s.fb ∨ i = .cls ∨ ∃ x y n, i = .drw x y n := by
  cases i with
  | cls => exact .inr (.inl rfl)
  | drw x y n => exact .inr (.inr ⟨x, y, n, rfl⟩)
  | ret | call | addIndex | ldBcd | storeRegs | loadRegs =>
    obtain ⟨_, rfl⟩ := h
    exact .inl rfl
  | _ =>
    obtain rfl := h
    exact .inl rfl

theorem mem_of_effect (h : Effect i s t) : t.mem = s.mem ∨ ∃ x, i = .ldBcd x ∨ i = .storeRegs x := by
  cases i with
  | ldBcd x => exact .inr ⟨x, .inl rfl⟩
  | storeRegs x => exact .inr ⟨x, .inr rfl⟩
  | ret | call | addIndex | loadRegs =>
    obtain ⟨_, rfl⟩ := h
    exact .inl rfl
  | drw =>
    obtain ⟨_, _, rfl, rfl⟩ := h
    exact .inl rfl
  | _ =>
    obtain rfl := h
    exact .inl rfl

theorem index_of_effect (h : Effect i s t) :
    t.i = s.i ∨ (∃ nnn, i = .ldIndex nnn) ∨ ∃ x, i = .addIndex x ∨ i = .storeRegs x ∨ i = .loadRegs x := by
  cases i with
  | ldIndex nnn => exact .inr (.inl ⟨nnn, rfl⟩)
  | addIndex x => exact .inr (.inr ⟨x, .inl rfl⟩)
  | storeRegs x => exact .inr (.inr ⟨x, .inr (.inl rfl)⟩)
  | loadRegs x => exact .inr (.inr ⟨x, .inr (.inr rfl)⟩)
  | ret | call | ldBcd =>
    obtain ⟨_, rfl⟩ := h
    exact .inl rfl
  | drw =>
    obtain ⟨_, _, rfl, rfl⟩ := h
    exact .inl rfl
  | _ =>
    obtain rfl := h
    exact .inl rfl

theorem stack_of_effect (h : Effect i s t) :
    (t.stack = s.stack ∧ t.sp = s.sp) ∨ i = .ret ∨ ∃ nnn, i = .call nnn := by
  cases i with
  | ret => exact .inr (.inl rfl)
  | call nnn => exact .inr (.inr ⟨nnn, rfl⟩)
  | addIndex | ldBcd | storeRegs | loadRegs =>
    obtain ⟨_, rfl⟩ := h
    exact .inl ⟨rfl, rfl⟩
  | drw =>
    obtain ⟨_, _, rfl, rfl⟩ := h
    exact .inl ⟨rfl, rfl⟩
  | _ =>
    obtain rfl := h
    exact .inl ⟨rfl, rfl⟩

theorem timers_fault_of_effect (h : Effect i s t) : SameTimersFault s t := by
  cases i with
  | ret | call | addIndex | ldBcd | storeRegs | loadRegs =>
    obtain ⟨_, rfl⟩ := h
    exact ⟨rfl, rfl, rfl⟩
  | drw =>
    obtain ⟨_, _, rfl, rfl⟩ := h
    exact ⟨rfl, rfl, rfl⟩
  | _ =>
    obtain rfl := h
    exact ⟨rfl, rfl, rfl⟩

/-- A skip goes on at one of two addresses. -/
theorem pc_of_skip {c : Prop} [Decidable c] {pc next : Word} (h : pc = if c then next + 4 else next + 2) :
    pc = next + 2 ∨ pc = next + 4 := by
  split at h
  · exact .inr h
  · exact .inl h

theorem pc_of_effect (h : Effect i s t) :
    t.pc = s.pc + 2 ∨
      (t.pc = s.pc + 4 ∧
        ((∃ x nn, i = .seImm x nn ∨ i = .sneImm x nn) ∨ ∃ x y, i = .seReg x y ∨ i = .sneReg x y)) ∨
      i = .ret ∨ ∃ nnn, i = .jp nnn ∨ i = .call nnn := by
  cases i with
  | seImm x nn =>
    exact (pc_of_skip (congrArg State.pc h)).imp_right fun h4 => .inl ⟨h4, .inl ⟨x, nn, .inl rfl⟩⟩
  | sneImm x nn =>
    exact (pc_of_skip (congrArg State.pc h)).imp_right fun h4 => .inl ⟨h4, .inl ⟨x, nn, .inr rfl⟩⟩
  | seReg x y =>
    exact (pc_of_skip (congrArg State.pc h)).imp_right fun h4 => .inl ⟨h4, .inr ⟨x, y, .inl rfl⟩⟩
  | sneReg x y =>
    exact (pc_of_skip (congrArg State.pc h)).imp_right fun h4 => .inl ⟨h4, .inr ⟨x, y, .inr rfl⟩⟩
  | ret => exact .inr (.inr (.inl rfl))
  | jp nnn => exact .inr (.inr (.inr ⟨nnn, .inl rfl⟩))
  | call nnn => exact .inr (.inr (.inr ⟨nnn, .inr rfl⟩))
  | addIndex | ldBcd | storeRegs | loadRegs =>
    obtain ⟨_, rfl⟩ := h
    exact .inl rfl
  | drw =>
    obtain ⟨_, _, rfl, rfl⟩ := h
    exact .inl rfl
  | _ =>
    obtain rfl := h
    exact .inl rfl

theorem setReg_reg_or (s : State) (x r : RegIx) (b : Byte) : (s.setReg x b).reg r = s.reg r ∨ r = x := by
  rw [setReg_reg]
  exact (em (r = x)).symm.imp_left fun h => if_neg h

theorem setRegFlag_reg_or (s : State) (x r : RegIx) (b : Byte) (c : Bool) :
    (s.setRegFlag x b c).reg r = s.reg r ∨ r = x ∨ r = vf := by
  obtain h | h := setReg_reg_or (s.setReg x b) vf r (flagByte c)
  · exact (setReg_reg_or s x r b).imp h.trans .inl
  · exact .inr (.inr h)

/-- A register at or past the length of the bytes is as before. -/
theorem setRegs_reg_of_length_le (s : State) {bytes : List Byte} {r : RegIx} (h : bytes.length ≤ r.val) :
    (s.setRegs bytes).reg r = s.reg r := by
  rw [setRegs_reg, List.getD_eq_default _ _ h]

theorem reg_of_effect (h : Effect i s t) (r : RegIx) :
    t.reg r = s.reg r ∨
      (∃ nn, i = .ldImm r nn ∨ i = .addImm r nn) ∨
      (∃ y, i = .ldReg r y ∨ i = .orReg r y ∨ i = .andReg r y ∨ i = .xorReg r y ∨ i = .addReg r y ∨ i = .subReg r y ∨
        i = .shrReg r y ∨ i = .subnReg r y ∨ i = .shlReg r y) ∨
      (∃ x : RegIx, i = .loadRegs x ∧ r.val ≤ x.val) ∨
      (r = vf ∧
        ((∃ x y, i = .addReg x y ∨ i = .subReg x y ∨ i = .shrReg x y ∨ i = .subnReg x y ∨ i = .shlReg x y) ∨
         ∃ x y n, i = .drw x y n)) := by
  cases i with
  | ldImm x nn | addImm x nn =>
    obtain rfl := h
    obtain hr | rfl := setReg_reg_or s x r _
    · exact .inl hr
    · exact .inr (.inl ⟨nn, by simp⟩)
  | ldReg x y | orReg x y | andReg x y | xorReg x y =>
    obtain rfl := h
    obtain hr | rfl := setReg_reg_or s x r _
    · exact .inl hr
    · exact .inr (.inr (.inl ⟨y, by simp⟩))
  | addReg x y | subReg x y | shrReg x y | subnReg x y | shlReg x y =>
    obtain rfl := h
    obtain hr | rfl | hr := setRegFlag_reg_or s x r _ _
    · exact .inl hr
    · exact .inr (.inr (.inl ⟨y, by simp⟩))
    · exact .inr (.inr (.inr (.inr ⟨hr, .inl ⟨x, y, by simp⟩⟩)))
  | loadRegs x =>
    obtain ⟨_, rfl⟩ := h
    by_cases hr : r.val ≤ x.val
    · exact .inr (.inr (.inr (.inl ⟨x, rfl, hr⟩)))
    · refine .inl (setRegs_reg_of_length_le s ?_)
      simp only [List.length_map, List.length_range, transferCount]
      omega
  | drw x y n =>
    obtain ⟨_, _, rfl, rfl⟩ := h
    exact (setReg_reg_or _ vf r _).imp_right fun hr => .inr (.inr (.inr ⟨hr, .inr ⟨x, y, n, rfl⟩⟩))
  | ret | call | addIndex | ldBcd | storeRegs =>
    obtain ⟨_, rfl⟩ := h
    exact .inl rfl
  | _ =>
    obtain rfl := h
    exact .inl rfl

/-- Settles O47: the clauses are the writers of each element, proved of the instruction's effect. -/
theorem eachElementHasOnlyItsNamedWriters : Obligations.EachElementHasOnlyItsNamedWriters := by
  intro i s t hexec
  have h := effect_of_exec hexec
  exact ⟨fb_of_effect h, mem_of_effect h, index_of_effect h, stack_of_effect h, reg_of_effect h, pc_of_effect h,
    timers_fault_of_effect h⟩

end Sys2Proof.Machine
end

section
/-! PROOFS. The invariant (10_state.md R27, R38): every transaction keeps it, so every reachable state meets it. -/

namespace Sys2Proof.Machine

/-- The fault element is in no part of the invariant. -/
theorem State.Inv.setFault {s : State} (h : s.Inv) (r : Option FaultRecord) : (s.setFault r).Inv := h

theorem State.Inv.setTimers {s : State} (h : s.Inv) (a b : Byte) : (s.setTimers a b).Inv := h

/-- Settles O41: every stack slot of the reset state reads as 0. -/
theorem resetMeetsTheInvariant : Obligations.ResetMeetsTheInvariant :=
  ⟨reset_mem_wf, by decide, fun k => by rw [reset_stack_slot]; decide⟩

section

variable {i : Instr} {s t : State}

theorem mem_wf_of_effect (h : Effect i s t) (hw : s.mem.wf = true) : t.mem.wf = true := by
  obtain hm | ⟨x, rfl | rfl⟩ := mem_of_effect h
  · rwa [hm]
  · obtain ⟨hr, rfl⟩ := h
    exact Memory.writeBytes_wf hw (by rwa [decimalDigits_length])
  · obtain ⟨hr, rfl⟩ := h
    exact Memory.writeBytes_wf hw (by rwa [regsUpTo_length])

theorem stack_le_of_effect (h : Effect i s t) (hpc : s.pc.toNat ≤ 0xFFE)
    (hs : ∀ k : Fin 16, s.stack[k.val].toNat ≤ 0xFFE) (k : Fin 16) : t.stack[k.val].toNat ≤ 0xFFE := by
  obtain ⟨hst, _⟩ | rfl | ⟨nnn, rfl⟩ := stack_of_effect h
  · rw [hst]
    exact hs k
  · obtain ⟨_, rfl⟩ := h
    exact hs k
  · obtain ⟨hroom, rfl⟩ := h
    rw [setPc_stack, setStack_stack, Vector.getElem_set]
    split
    · exact hpc
    · exact hs k

theorem pc_le_of_effect (h : Effect i s t) (hi : i.wellFormed = true) (hpc : s.pc.toNat ≤ 0xFFE)
    (hs : ∀ k : Fin 16, s.stack[k.val].toNat ≤ 0xFFE) : t.pc.toNat ≤ 0x1002 := by
  obtain h2 | ⟨h4, _⟩ | rfl | ⟨nnn, rfl | rfl⟩ := pc_of_effect h
  · bv_omega
  · bv_omega
  · obtain ⟨hpos, rfl⟩ := h
    have hslot := hs ⟨s.sp.val - 1, by omega⟩
    rw [setPc_pc]
    bv_omega
  · obtain rfl := h
    have hn : nnn.toNat < 0x1000 := of_decide_eq_true hi
    rw [setPc_pc]
    omega
  · obtain ⟨_, rfl⟩ := h
    have hn : nnn.toNat < 0x1000 := of_decide_eq_true hi
    rw [setPc_pc]
    omega

end

theorem exec_keeps_inv {i : Instr} {s t : State} (hs : s.Inv) (hpc : s.pc.toNat ≤ 0xFFE) (hi : i.wellFormed = true)
    (h : exec i s = .next t) : t.Inv := by
  obtain ⟨hw, _, hstack⟩ := hs
  have he := effect_of_exec h
  exact ⟨mem_wf_of_effect he hw, pc_le_of_effect he hi hpc hstack, stack_le_of_effect he hpc hstack⟩

theorem step_keeps_inv {s t : State} (hs : s.Inv) (h : step s = .next t) : t.Inv := by
  obtain ⟨_, op, hf, hstep⟩ := step_next_cases h
  obtain ⟨hfetch, _⟩ := fetch_some_iff.mp hf
  have hpc : s.pc.toNat ≤ 0xFFE := by omega
  obtain ⟨i, hd, hexec⟩ | ⟨_, rfl⟩ := hstep
  · exact exec_keeps_inv hs hpc (decode_wellFormed hd) hexec
  · obtain ⟨hw, _, hstack⟩ := hs
    refine ⟨hw, ?_, hstack⟩
    rw [setPc_pc]
    bv_omega

theorem load_keeps_inv {image : List Byte} {s t : State} (hs : s.Inv) (h : load image s = .next t) : t.Inv := by
  have hw := load_wf h hs.1
  obtain ⟨_, _, rfl⟩ := load_next_iff.mp h
  obtain ⟨_, hrest⟩ := hs
  exact ⟨hw, hrest⟩

/-- A transaction that faults leaves the state before it with the fault element set (R262). -/
theorem transact_fault {tr : Transaction} {s t : State} {r : FaultRecord} (h : transact tr s = .fault (.raised r t)) :
    s.fault = none ∧ t = s.setFault (some r) := by
  cases tr with
  | new | tickTimers => cases h
  | load image =>
    obtain ⟨hs, _, _, ht⟩ := load_fault_iff.mp h
    exact ⟨hs, ht⟩
  | step =>
    obtain ⟨hs, ht, _⟩ := step_fault_cases h
    exact ⟨hs, ht⟩

/-- Settles O46: by what a faulting `load` and a faulting step can be. -/
theorem faultsChangeOnlyTheFaultElement : Obligations.FaultsChangeOnlyTheFaultElement :=
  ⟨fun _ _ _ _ => transact_fault, fun _ => ⟨rfl, rfl⟩⟩

/-- Settles O42: by transaction; a fault changes no element the invariant speaks of. -/
theorem stepKeepsTheInvariant : Obligations.StepKeepsTheInvariant := by
  rintro tr s t hs (h | ⟨r, h⟩)
  · cases tr with
    | new =>
      cases h
      exact resetMeetsTheInvariant
    | load image => exact load_keeps_inv hs h
    | step => exact step_keeps_inv hs h
    | tickTimers =>
      cases h
      exact hs.setTimers _ _
  · obtain ⟨_, rfl⟩ := transact_fault h
    exact hs.setFault _

theorem step_keeps_timers {s t : State} (h : step s = .next t) : t.dt = s.dt ∧ t.st = s.st := by
  obtain ⟨_, _, _, ⟨i, _, hexec⟩ | ⟨_, rfl⟩⟩ := step_next_cases h
  · obtain ⟨hdt, hst, _⟩ := timers_fault_of_effect (effect_of_exec hexec)
    exact ⟨hdt, hst⟩
  · exact ⟨rfl, rfl⟩

/-- No transaction starts a timer (10_state.md section 5): at 0 each stays 0. -/
theorem transact_keeps_zero_timers {tr : Transaction} {s t : State} (hd : s.dt = 0) (hs : s.st = 0)
    (h : transact tr s = .next t) : t.dt = 0 ∧ t.st = 0 := by
  cases tr with
  | new =>
    cases h
    exact ⟨rfl, rfl⟩
  | load image =>
    obtain ⟨_, _, rfl⟩ := load_next_iff.mp h
    exact ⟨hd, hs⟩
  | step =>
    obtain ⟨htd, hts⟩ := step_keeps_timers h
    exact ⟨htd.trans hd, hts.trans hs⟩
  | tickTimers =>
    cases h
    rw [tickTimers_dt, tickTimers_st, hd, hs, decrementTimer_zero]
    exact ⟨rfl, rfl⟩

/-- Settles O43: by induction over the transactions that reach the state, each of which keeps the invariant and timers at 0. -/
theorem reachableStatesMeetTheInvariant : Obligations.ReachableStatesMeetTheInvariant := by
  intro s hr
  induction hr with
  | new => exact ⟨resetMeetsTheInvariant, rfl, rfl⟩
  | completes _ h ih =>
    obtain ⟨hinv, hd, hs⟩ := ih
    exact ⟨stepKeepsTheInvariant _ _ _ hinv (.inl h), transact_keeps_zero_timers hd hs h⟩
  | faults _ h ih =>
    obtain ⟨hinv, hd, hs⟩ := ih
    obtain ⟨_, rfl⟩ := transact_fault h
    exact ⟨hinv.setFault _, hd, hs⟩

end Sys2Proof.Machine
end

section
/-! PROOFS. Noninterference: what a step of one state says of a step of a related state. -/

namespace Sys2Proof.Machine

/-- Two states related by `R` have related executions of `i`: an effect in one is an effect in the other, a fault in one is the
same fault in the other, and setting the fault element keeps `R`. -/
theorem exec_related {R : State → State → Prop} {i : Instr} {s s' : State}
    (heffect : ∀ t, Effect i s t → ∃ t', Effect i s' t' ∧ R t t') (hraises : ∀ r, Raises i s r → Raises i s' r)
    (hfault : ∀ r, R (s.setFault r) (s'.setFault r)) : RelatedOutcomes R (exec i s) (exec i s') := by
  obtain ⟨t, ht, he⟩ | ⟨r, _, hr⟩ := exec_cases i s
  · obtain ⟨t', he', hR⟩ := heffect t he
    rw [ht, exec_of_effect he']
    exact hR
  · rw [exec_of_raises hr, exec_of_raises (hraises r hr)]
    exact ⟨rfl, hfault _⟩

/-- Two states that fetch alike have related steps if every instruction has related executions. -/
theorem step_related {R : State → State → Prop} {s s' : State} (hsame : s'.fault = s.fault) (hmem : s'.mem = s.mem)
    (hpc : s'.pc = s.pc) (hexec : ∀ i, RelatedOutcomes R (exec i s) (exec i s'))
    (hfault : ∀ r, R (s.setFault r) (s'.setFault r)) (hadvance : ∀ w, R (s.setPc w) (s'.setPc w)) :
    RelatedOutcomes R (step s) (step s') := by
  have hfetch : fetch s' = fetch s := by rw [fetch, fetch, State.wordAt, State.wordAt, hpc, hmem]
  cases hs : s.fault with
  | some r =>
    rw [step_of_fault hs, step_of_fault (hsame.trans hs)]
    exact rfl
  | none =>
    have hs' := hsame.trans hs
    cases hf : fetch s with
    | none =>
      rw [step_of_fetch_none hs hf, step_of_fetch_none hs' (hfetch.trans hf), hpc]
      exact ⟨rfl, hfault _⟩
    | some op =>
      cases hd : decode op with
      | instr i =>
        rw [step_of_instr hs hf hd, step_of_instr hs' (hfetch.trans hf) hd]
        exact hexec i
      | unsupported w =>
        rw [step_of_unsupported hs hf hd, step_of_unsupported hs' (hfetch.trans hf) hd, hpc]
        exact hadvance _

/-! ### The timers -/

theorem effect_setTimers {i : Instr} {s t : State} (a b : Byte) (h : Effect i s t) :
    Effect i (s.setTimers a b) (t.setTimers a b) := by
  cases i with
  | ret | call | addIndex | ldBcd | storeRegs | loadRegs =>
    obtain ⟨hok, rfl⟩ := h
    exact ⟨hok, rfl⟩
  | drw =>
    obtain ⟨hok, _, rfl, rfl⟩ := h
    exact ⟨hok, _, rfl, rfl⟩
  | _ =>
    obtain rfl := h
    rfl

theorem raises_setTimers {i : Instr} {s : State} {r : FaultRecord} (a b : Byte) (h : Raises i s r) :
    Raises i (s.setTimers a b) r := by
  cases i <;> exact h

/-- Outcomes related by a function are that function's image. -/
theorem eq_mapOutcome_of_related {f : State → State} {o o' : Host.Outcome State Fault Refusal}
    (h : RelatedOutcomes (fun t t' => t' = f t) o o') : o' = mapOutcome f o := by
  match o, o', h with
  | .next _, .next _, rfl => rfl
  | .fault (.raised _ _), .fault (.raised _ _), ⟨rfl, rfl⟩ => rfl
  | .refused _, .refused _, rfl => rfl

/-- Settles O48: other timer values leave every effect's and every fault's conditions as they are. -/
theorem timersNeverInfluenceAStep : Obligations.TimersNeverInfluenceAStep := by
  intro s a b
  refine eq_mapOutcome_of_related (step_related rfl rfl rfl (fun i => ?_) (fun _ => rfl) (fun _ => rfl))
  exact exec_related (fun t h => ⟨_, effect_setTimers a b h, rfl⟩) (fun _ => raises_setTimers a b) (fun _ => rfl)

/-! ### The stale stack slots -/

/-- An instruction that is no call and no return has the same effect beside other stack slots. -/
theorem effect_setStack {i : Instr} {s t : State} (k : Vector Word 16) (hcall : ∀ nnn, i ≠ .call nnn) (hret : i ≠ .ret)
    (h : Effect i s t) : Effect i (s.setStack k s.sp) (t.setStack k t.sp) := by
  cases i with
  | ret => exact absurd rfl hret
  | call nnn => exact absurd rfl (hcall nnn)
  | addIndex | ldBcd | storeRegs | loadRegs =>
    obtain ⟨hok, rfl⟩ := h
    exact ⟨hok, rfl⟩
  | drw =>
    obtain ⟨hok, _, rfl, rfl⟩ := h
    exact ⟨hok, _, rfl, rfl⟩
  | _ =>
    obtain rfl := h
    rfl

theorem raises_setStack {i : Instr} {s : State} {r : FaultRecord} (k : Vector Word 16) (h : Raises i s r) :
    Raises i (s.setStack k s.sp) r := by
  cases i <;> exact h

theorem sameButStaleSlots_setStack {s : State} {k : Vector Word 16}
    (hk : ∀ j : Fin 16, j.val < s.sp.val → k[j.val] = s.stack[j.val]) : SameButStaleSlots s (s.setStack k s.sp) :=
  ⟨rfl, hk⟩

/-- A call writes slot SP on both sides and a return reads a slot below SP, where the two agree; no other instruction reads or
writes a slot. -/
theorem effect_of_stale_slots {i : Instr} {s t : State} {k : Vector Word 16}
    (hk : ∀ j : Fin 16, j.val < s.sp.val → k[j.val] = s.stack[j.val]) (h : Effect i s t) :
    ∃ t', Effect i (s.setStack k s.sp) t' ∧ SameButStaleSlots t t' := by
  cases i with
  | call nnn =>
    obtain ⟨hroom, rfl⟩ := h
    refine ⟨_, ⟨hroom, rfl⟩, rfl, fun j hj => ?_⟩
    simp only [setPc_stack, setStack_stack, setStack_sp, setStack_pc, Vector.getElem_set]
    split
    · rfl
    · next hne => exact hk j (by simp only [setPc_sp, setStack_sp] at hj; omega)
  | ret =>
    obtain ⟨hpos, rfl⟩ := h
    have htop := hk ⟨s.sp.val - 1, by omega⟩ (Nat.sub_lt hpos Nat.one_pos)
    refine ⟨_, ⟨hpos, rfl⟩, ?_, fun j hj => hk j (Nat.lt_of_lt_of_le hj (Nat.sub_le _ _))⟩
    simp only [setStack_stack, setStack_sp, htop]
    rfl
  | _ =>
    refine ⟨_, effect_setStack k nofun nofun h, sameButStaleSlots_setStack ?_⟩
    obtain ⟨hstack, hsp⟩ | hret | ⟨_, hcall⟩ := stack_of_effect h
    · rwa [hstack, hsp]
    · cases hret
    · cases hcall

/-- Settles O49: a step fetches and decodes alike in both states, and executes alike by `effect_of_stale_slots`. -/
theorem staleStackSlotsNeverInfluenceAStep : Obligations.StaleStackSlotsNeverInfluenceAStep := by
  rintro s s' ⟨heq, hk⟩
  rw [heq]
  exact step_related rfl rfl rfl
    (fun i => exec_related (fun t => effect_of_stale_slots hk) (fun r => raises_setStack s'.stack) fun r =>
      sameButStaleSlots_setStack hk)
    (fun r => sameButStaleSlots_setStack hk) (fun w => sameButStaleSlots_setStack hk)

end Sys2Proof.Machine
end

section
/-! PROOFS. The instruction cycle and the faults (40_cycle.md, 60_exceptions.md): which instruction a step runs, where it leaves
`pc`, what it reports, and what it can raise. -/

namespace Sys2Proof.Machine

/-- The fetched word is the big-endian value of the two bytes at `pc` (20_memory.md R51). -/
theorem fetch_eq_some {s : State} {op : Word} (hpc : s.pc.toNat + 1 < 4096)
    (hop : op.toNat = (s.mem.read s.pc.toNat).toNat * 256 + (s.mem.read (s.pc.toNat + 1)).toNat) : fetch s = some op := by
  refine fetch_some_iff.mpr ⟨hpc, BitVec.eq_of_toNat_eq ?_⟩
  rw [hop, State.wordAt, joinBytes_toNat]

/-- Settles O5: the word at `pc` is the opcode fetched. -/
theorem stepRunsTheDecodedInstruction : Obligations.StepRunsTheDecodedInstruction := by
  intro s op i hs hpc hop hd
  exact step_of_instr hs (fetch_eq_some hpc hop) hd

/-- Settles O7: no opcode is fetched there. -/
theorem fetchBeyondMemoryFaults : Obligations.FetchBeyondMemoryFaults := by
  intro s hs hpc
  exact step_of_fetch_none hs (fetch_none_iff.mpr hpc)

/-- Settles O8: the fault element is checked first by both operations. -/
theorem faultedStateHasNoStepAndNoLoad : Obligations.FaultedStateHasNoStepAndNoLoad := by
  intro s r hs
  refine ⟨step_of_fault hs, fun image => ?_⟩
  rw [load, hs]

theorem step_ne_refused {s : State} (hs : s.fault = none) (q : Refusal) : step s ≠ .refused q := by
  cases hf : fetch s with
  | none =>
    rw [step_of_fetch_none hs hf]
    nofun
  | some op =>
    cases hd : decode op with
    | instr i =>
      rw [step_of_instr hs hf hd]
      exact exec_ne_refused i s q
    | unsupported w =>
      rw [step_of_unsupported hs hf hd]
      nofun

/-- Settles O9: by whether the step fetches, and whether the opcode decodes to an instruction. -/
theorem nothingIsRefusedBeforeAFault : Obligations.NothingIsRefusedBeforeAFault :=
  ⟨fun _ q hs => step_ne_refused hs q, exec_ne_refused⟩

/-- Settles O10: the line of the fetched instruction is the `pc` of its effect. -/
theorem programCounterAfterEveryStep : Obligations.ProgramCounterAfterEveryStep := by
  intro s t h
  obtain ⟨_, op, hf, ⟨i, hd, hexec⟩ | ⟨hd, rfl⟩⟩ := step_next_cases h
  · refine ⟨op, hf, ?_⟩
    have he := effect_of_exec hexec
    rw [hd]
    cases i with
    | ret =>
      obtain ⟨hpos, rfl⟩ := he
      exact ⟨⟨s.sp.val - 1, by omega⟩, by simp only; omega, rfl⟩
    | call | addIndex | ldBcd | storeRegs | loadRegs =>
      obtain ⟨_, rfl⟩ := he
      exact setPc_pc _ _
    | drw =>
      obtain ⟨_, _, rfl, rfl⟩ := he
      exact setPc_pc _ _
    | _ =>
      obtain rfl := he
      exact setPc_pc _ _
  · refine ⟨op, hf, ?_⟩
    rw [hd]
    exact setPc_pc s _

/-- Settles O11: a completed step has fetched an opcode, and what it decodes to determines status and trace. -/
theorem completedStepsReportStatusAndTrace : Obligations.CompletedStepsReportStatusAndTrace := by
  refine ⟨fun s t h => ?_, fun s h => ?_⟩
  · obtain ⟨_, op, hf, ⟨i, hd, _⟩ | ⟨hd, _⟩⟩ := step_next_cases h
    · refine ⟨op, hf, .inl ⟨i, hd, ?_⟩⟩
      rw [stepOutput_next h hf, hd, statusOf_instr]
    · refine ⟨op, hf, .inr ⟨hd, ?_⟩⟩
      rw [stepOutput_next h hf, hd, statusOf_unsupported]
  · unfold stepOutput
    split
    · exact absurd ‹_› (h _)
    · rfl

/-- Settles O45: the conditions of `Raises`, instruction by instruction. -/
theorem eachInstructionRaisesOnlyItsOwnFault : Obligations.EachInstructionRaisesOnlyItsOwnFault := by
  intro i s t r h
  obtain ⟨hr, _⟩ := raises_of_exec h
  cases i with
  | ret => exact .inl ⟨rfl, hr⟩
  | call nnn => exact .inr (.inl ⟨nnn, rfl, hr⟩)
  | drw x y n => exact .inr (.inr (.inl ⟨x, y, n, rfl, hr⟩))
  | ldBcd x => exact .inr (.inr (.inr (.inl ⟨x, rfl, hr⟩)))
  | storeRegs x => exact .inr (.inr (.inr (.inr (.inl ⟨x, .inl rfl, hr⟩))))
  | loadRegs x => exact .inr (.inr (.inr (.inr (.inl ⟨x, .inr rfl, hr⟩))))
  | addIndex x => exact .inr (.inr (.inr (.inr (.inr ⟨x, rfl, hr⟩))))
  | _ => exact hr.elim

/-- Two zero bytes at `pc` are the unsupported opcode 0x0000, which only advances (20_memory.md R59). -/
theorem step_of_zero_bytes {s : State} (hs : s.fault = none) (hpc : s.pc.toNat + 1 < 4096)
    (h0 : s.mem.read s.pc.toNat = 0) (h1 : s.mem.read (s.pc.toNat + 1) = 0) : step s = .next (s.setPc (s.pc + 2)) := by
  have hf : fetch s = some 0x0000 := fetch_eq_some hpc (by rw [h0, h1]; rfl)
  have hd : decode 0x0000 = .unsupported 0x0000 := by decide
  exact step_of_unsupported hs hf hd

theorem runsTo_of_zeros {s : State} {k : Nat} (hs : s.fault = none) (hk : s.pc.toNat + 2 * k = 0x1000)
    (hzero : ∀ a : Nat, s.pc.toNat ≤ a → s.mem.read a = 0) : RunsTo k s (s.setPc 0x1000) := by
  induction k generalizing s with
  | zero =>
    have hpc : s.pc = 0x1000 := BitVec.eq_of_toNat_eq hk
    rw [← hpc]
    exact rfl
  | succ k ih =>
    have hstep := step_of_zero_bytes hs (by omega) (hzero _ le_rfl) (hzero _ (Nat.le_succ _))
    have hnext : (s.pc + 2).toNat = s.pc.toNat + 2 := by bv_omega
    refine ⟨_, hstep, ih (s := s.setPc (s.pc + 2)) hs ?_ fun a ha => hzero a ?_⟩
    · rw [setPc_pc, hnext]
      omega
    · rw [setPc_pc, hnext] at ha
      omega

/-- Settles O50: each of the `k` steps meets a zero opcode (`runsTo_of_zeros`), and at 0x1000 no opcode is fetched. -/
theorem zeroedMemorySlidesToTheFetchFault : Obligations.ZeroedMemorySlidesToTheFetchFault := by
  intro s k hs hk hzero
  have hend : fetch (s.setPc 0x1000) = none := fetch_none_iff.mpr (by rw [setPc_pc]; decide)
  exact ⟨runsTo_of_zeros hs hk hzero, step_of_fetch_none hs hend⟩

end Sys2Proof.Machine
end

section
/-! PROOFS. Control flow (41_control_flow.md): the self-jump, the call and the return by themselves, the register skips. -/

namespace Sys2Proof

/-- A last nibble that is not 0 is no instruction in the two families whose format fixes it (D18). -/
theorem decode_packXYN_last_nibble {f : Nat} (hf : f = 0x5 ∨ f = 0x9) (x y : RegIx) {n : Nat} (hn : n < 0x10)
    (h0 : n ≠ 0) : decode (packXYN f x y n) = .unsupported (packXYN f x y n) := by
  have hfam := packXYN_family (f := f) (by omega) x y n
  have hlast := packXYN_n (f := f) (by omega) x y n
  rw [fieldFamily] at hfam
  rw [fieldN] at hlast
  refine (unsupportedSpaceIsExactlyTheListedRanges _).1.mpr ?_
  omega

theorem packXYN_digits (f : Nat) (x y : RegIx) {n : Nat} (hn : n < 0x10) :
    packXYN f x y n = BitVec.ofNat 16 (f * 0x1000 + x.val * 0x100 + y.val * 0x10 + n) := by
  rw [packXYN, Nat.mod_eq_of_lt hn]

namespace Machine

/-- Settles O13: the jump it fetches sets `pc` to the value it has. -/
theorem selfJumpIsAFixedPointOfStep : Obligations.SelfJumpIsAFixedPointOfStep := by
  intro s hs hpc hword
  have hf : fetch s = some (BitVec.ofNat 16 (0x1000 + s.pc.toNat)) := fetch_some_iff.mpr ⟨by omega, hword.symm⟩
  have hd := decode_jp_word (nnn := s.pc) (by omega)
  calc
    step s = exec (.jp s.pc) s := step_of_instr hs hf hd
    _ = .next (s.setPc s.pc) := exec_jp s.pc s
    _ = .next s := rfl

/-- Writing the stack and `pc` keeps every other element. -/
theorem frame_setStack_setPc (s : State) (k : Vector Word 16) (n : Fin 17) (p : Word) :
    SameRegsBut (fun _ => False) s ((s.setStack k n).setPc p) ∧ ((s.setStack k n).setPc p).i = s.i ∧
      SameMem s ((s.setStack k n).setPc p) ∧ SameDisplay s ((s.setStack k n).setPc p) ∧
      SameTimersFault s ((s.setStack k n).setPc p) := by
  obtain ⟨hregs, hi, _, hrest⟩ := onlyPc_setPc (s.setStack k n) p
  exact ⟨hregs, hi, hrest⟩

/-- Settles O14: the next state is the call's effect, which sets slot `k` only. -/
theorem callPushesItsOwnAddress : Obligations.CallPushesItsOwnAddress := by
  intro s nnn k hk
  have hroom : s.sp.val < 16 := by omega
  refine ⟨_, exec_of_effect ⟨hroom, rfl⟩, setPc_pc _ _, rfl, ?_, fun j hj => ?_, frame_setStack_setPc s _ _ _⟩
  · simp only [setPc_stack, setStack_stack, hk, Vector.getElem_set_self]
  · have hne : s.sp.val ≠ j.val := fun e => hj (Fin.ext (e.symm.trans hk))
    rw [setPc_stack, setStack_stack, Vector.getElem_set_ne _ _ hne]

/-- Settles O15: the next state is that of `exec_ret_of_sp`, which keeps the slots. -/
theorem returnContinuesAfterTheCall : Obligations.ReturnContinuesAfterTheCall := by
  intro s k hk
  exact ⟨_, exec_ret_of_sp hk, setPc_pc _ _, rfl, rfl, frame_setStack_setPc s _ _ _⟩

/-- Settles O16: each condition is the one under which the instruction raises its fault. -/
theorem fullAndEmptyStackFault : Obligations.FullAndEmptyStackFault :=
  ⟨fun _ _ h => exec_of_raises ⟨h, rfl⟩, fun _ h => exec_of_raises ⟨h, rfl⟩⟩

/-- 5XY0, with the comparison on the values. -/
theorem exec_seReg (x y : RegIx) (s : State) :
    exec (.seReg x y) s = .next (s.setPc (if (s.reg x).toNat = (s.reg y).toNat then s.pc + 4 else s.pc + 2)) :=
  exec_of_effect (by simp only [Effect, BitVec.toNat_inj])

/-- 9XY0, with the comparison on the values. -/
theorem exec_sneReg (x y : RegIx) (s : State) :
    exec (.sneReg x y) s = .next (s.setPc (if (s.reg x).toNat = (s.reg y).toNat then s.pc + 2 else s.pc + 4)) :=
  exec_of_effect (by simp only [Effect, BitVec.toNat_inj, ne_eq, ite_not])

/-- Settles O19: each skip's next state is `s.setPc` of one of the two advances, and another last nibble lies in the unsupported
space. -/
theorem registerSkipsCompareAndAdvance : Obligations.RegisterSkipsCompareAndAdvance := by
  intro s x y
  refine ⟨packXYN_digits 0x5 x y (n := 0) (by decide) ▸ Laws.RoundTrip.seReg x y rfl,
    packXYN_digits 0x9 x y (n := 0) (by decide) ▸ Laws.RoundTrip.sneReg x y rfl, fun n hn => ⟨?_, ?_⟩,
    ⟨_, exec_seReg x y s, onlyPc_setPc s _, setPc_pc s _⟩, ⟨_, exec_sneReg x y s, onlyPc_setPc s _, setPc_pc s _⟩⟩
  · exact packXYN_digits 0x5 x y n.isLt ▸ decode_packXYN_last_nibble (.inl rfl) x y n.isLt hn
  · exact packXYN_digits 0x9 x y n.isLt ▸ decode_packXYN_last_nibble (.inr rfl) x y n.isLt hn

end Machine

end Sys2Proof
end

section
/-! PROOFS. Arithmetic with a flag (42_registers_alu.md section 3): 8XY4 to 8XY7 and 8XYE. -/

namespace Sys2Proof.Machine

/-- An instruction whose whole effect is to write `b` to VX, then the flag `c` to VF, and go on. -/
theorem exec_of_effect_setRegFlag {i : Instr} {s : State} {x : RegIx} {b : Byte} {c : Bool}
    (he : Effect i s ((s.setRegFlag x b c).setPc (s.pc + 2))) :
    ∃ t, exec i s = .next t ∧ t.pc = s.pc + 2 ∧ OnlyRegs (fun r => r = x ∨ r = vf) s t ∧ (x ≠ vf → t.reg x = b) ∧
      t.reg vf = flagByte c := by
  have hframe : OnlyRegs (fun r => r = x ∨ r = vf) s (s.setRegFlag x b c) :=
    ((OnlyRegs.refl _ s).setReg (.inl rfl) b).setReg (.inr rfl) (flagByte c)
  refine ⟨_, exec_of_effect he, setPc_pc _ _, hframe.setPc _, fun hx => ?_, ?_⟩
  · rw [setPc_reg, setRegFlag_reg, if_neg hx, if_pos rfl]
  · rw [setPc_reg, setRegFlag_reg, if_pos rfl]

theorem flagByte_decide (p : Prop) [Decidable p] : flagByte (decide p) = if p then 1 else 0 := by
  simp only [flagByte, decide_eq_true_eq]

/-- The byte difference wraps as subtraction of 8-bit words does (R161). -/
theorem subBytes_eq_sub (a b : Byte) : subBytes a b = a - b := by
  apply BitVec.eq_of_toNat_eq
  rw [subBytes, BitVec.toNat_ofNat, BitVec.toNat_sub]
  omega

theorem shrByte_toNat (a : Byte) : (shrByte a).toNat = a.toNat / 2 := by
  rw [shrByte, BitVec.toNat_ushiftRight, Nat.shiftRight_eq_div_pow]

theorem shlByte_toNat (a : Byte) : (shlByte a).toNat = a.toNat * 2 % 256 := by
  rw [shlByte, BitVec.toNat_shiftLeft, Nat.shiftLeft_eq]

/-- Bit 7 is 1 in the bytes from 128 on (R174). -/
theorem shlFlag_eq (a : Byte) : shlFlag a = decide (128 ≤ a.toNat) := by
  have hmsb : a.msb = a.getLsbD 7 := BitVec.msb_eq_getLsbD_last a
  rw [shlFlag, ← hmsb, BitVec.msb_eq_decide]

/-- Settles O22: the sum and the carry are those of `addBytes` and `carryFlag`. -/
theorem addSetsSumAndCarry : Obligations.AddSetsSumAndCarry := by
  intro s x y
  obtain ⟨t, ht, hpc, hframe, hx, hf⟩ := exec_of_effect_setRegFlag (i := .addReg x y) (s := s) rfl
  exact ⟨t, ht, hpc, hframe, fun h => hx h ▸ addBytes_toNat _ _, hf.trans (flagByte_decide _)⟩

/-- Settles O23: the byte difference is subtraction of 8-bit words, and the flag is the comparison it underflows by. -/
theorem subtractionsSetDifferenceAndBorrow : Obligations.SubtractionsSetDifferenceAndBorrow := by
  intro s x y
  constructor
  · obtain ⟨t, ht, hpc, hframe, hx, hf⟩ := exec_of_effect_setRegFlag (i := .subReg x y) (s := s) rfl
    exact ⟨t, ht, hpc, hframe, fun h => (hx h).trans (subBytes_eq_sub _ _), hf.trans (flagByte_decide _)⟩
  · obtain ⟨t, ht, hpc, hframe, hx, hf⟩ := exec_of_effect_setRegFlag (i := .subnReg x y) (s := s) rfl
    exact ⟨t, ht, hpc, hframe, fun h => (hx h).trans (subBytes_eq_sub _ _), hf.trans (flagByte_decide _)⟩

/-- Settles O24: the shifts are division and multiplication by 2, and the left shift's flag compares with 128. -/
theorem shiftsSetResultAndFlag : Obligations.ShiftsSetResultAndFlag := by
  intro s x y
  constructor
  · obtain ⟨t, ht, hpc, hframe, hx, hf⟩ := exec_of_effect_setRegFlag (i := .shrReg x y) (s := s) rfl
    exact ⟨t, ht, hpc, hframe, fun h => hx h ▸ shrByte_toNat _, hf⟩
  · obtain ⟨t, ht, hpc, hframe, hx, hf⟩ := exec_of_effect_setRegFlag (i := .shlReg x y) (s := s) rfl
    rw [shlFlag_eq, flagByte_decide] at hf
    exact ⟨t, ht, hpc, hframe, fun h => hx h ▸ shlByte_toNat _, hf⟩

end Sys2Proof.Machine
end

section
/-! PROOFS. Index register and memory (43_index_memory.md): FX1E, the two stores, the load, and their bounds. -/

namespace Sys2Proof

/-- Format XK with its constant digits, family and function byte, first, as a match column writes them (R82, R84). -/
theorem packXK_match_first (f : Nat) (x : RegIx) {n : Nat} (hn : n < 0x100) :
    packXK f x n = BitVec.ofNat 16 (f * 0x1000 + n + x.val * 0x100) := by
  rw [packXK, Nat.mod_eq_of_lt hn]
  congr 1
  omega

namespace Machine

/-- Settles O26: a sum of at most 0xFFFF is its own 16-bit value. -/
theorem addToIndexIsExact : Obligations.AddToIndexIsExact := by
  intro s x h
  refine ⟨_, exec_of_effect ⟨h, rfl⟩, ?_, setPc_pc _ _, frame_setIndex_setPc s _ _⟩
  rw [setPc_i, setIndex_i, BitVec.toNat_ofNat]
  omega

/-- Settles O27: the condition is the one under which FX1E raises its fault. -/
theorem addToIndexPastFFFFFaults : Obligations.AddToIndexPastFFFFFaults := fun _ _ h => exec_of_raises ⟨h, rfl⟩

/-- Settles O31: each condition is the one under which the instruction raises its fault, whose opcode is the encoded word. -/
theorem dataAccessPastMemoryFaults : Obligations.DataAccessPastMemoryFaults := by
  refine ⟨fun s x h => ?_, fun s x h => ?_, fun s x h => ?_, fun s x y n hn h => ?_⟩
  · rw [← packXK_match_first 0xF x (n := 0x33) (by decide)]
    exact exec_of_raises ⟨h, rfl⟩
  · rw [← packXK_match_first 0xF x (n := 0x55) (by decide)]
    exact exec_of_raises ⟨h, rfl⟩
  · rw [← packXK_match_first 0xF x (n := 0x65) (by decide)]
    exact exec_of_raises ⟨h, rfl⟩
  · rw [← packXYN_digits 0xD x y (by omega)]
    exact exec_of_raises ⟨h, rfl⟩

/-- `I` past a block that lies in memory is the exact sum (R206, R207). -/
theorem indexPast_toNat {s : State} {n : Nat} (h : s.dataAddr 0 + n ≤ 4096) : (s.indexPast n).toNat = s.i.toNat + n := by
  rw [State.dataAddr] at h
  rw [State.indexPast, BitVec.toNat_add, BitVec.toNat_ofNat]
  omega

/-- Writing memory, I and `pc` keeps every other element. -/
theorem frame_setMem_setIndex_setPc (s : State) (m : Memory) (w p : Word) :
    SameRegsBut (fun _ => False) s (((s.setMem m).setIndex w).setPc p) ∧
      SameStack s (((s.setMem m).setIndex w).setPc p) ∧ SameDisplay s (((s.setMem m).setIndex w).setPc p) ∧
      SameTimersFault s (((s.setMem m).setIndex w).setPc p) := by
  obtain ⟨hregs, hstack, _, hrest⟩ := frame_setIndex_setPc (s.setMem m) w p
  exact ⟨hregs, hstack, hrest⟩

theorem dataAddr_eq (s : State) (k : Nat) : s.dataAddr k = s.i.toNat + k := rfl

theorem byteAfterDigitStore_hundreds (s : State) (x : RegIx) :
    (s.byteAfterDigitStore x (s.dataAddr 0)).toNat = (s.reg x).toNat / 100 := by
  rw [State.byteAfterDigitStore, dataAddr_eq, if_pos (by omega), BitVec.toNat_ofNat]
  omega

theorem byteAfterDigitStore_tens (s : State) (x : RegIx) :
    (s.byteAfterDigitStore x (s.dataAddr 1)).toNat = (s.reg x).toNat / 10 % 10 := by
  rw [State.byteAfterDigitStore, dataAddr_eq, if_neg (by omega), if_pos (by omega), BitVec.toNat_ofNat]
  omega

theorem byteAfterDigitStore_units (s : State) (x : RegIx) :
    (s.byteAfterDigitStore x (s.dataAddr 2)).toNat = (s.reg x).toNat % 10 := by
  rw [State.byteAfterDigitStore, dataAddr_eq, if_neg (by omega), if_neg (by omega), if_pos (by omega), BitVec.toNat_ofNat]
  omega

theorem byteAfterDigitStore_outside {s : State} {a : Nat} (x : RegIx) (ha : ¬(s.dataAddr 0 ≤ a ∧ a < s.dataAddr 0 + 3)) :
    s.byteAfterDigitStore x a = s.mem.read a := by
  rw [dataAddr_eq] at ha
  rw [State.byteAfterDigitStore, if_neg (by omega), if_neg (by omega), if_neg (by omega)]

theorem byteAfterRegStore_inside {s : State} {x k : RegIx} (hk : k.val ≤ x.val) :
    s.byteAfterRegStore x (s.dataAddr k.val) = s.reg k := by
  rw [State.byteAfterRegStore, dataAddr_eq, dif_pos (by omega)]
  congr 1
  exact Fin.ext (Nat.add_sub_cancel_left _ _)

theorem byteAfterRegStore_outside {s : State} {x : RegIx} {a : Nat}
    (ha : ¬(s.dataAddr 0 ≤ a ∧ a < s.dataAddr 0 + (x.val + 1))) : s.byteAfterRegStore x a = s.mem.read a := by
  rw [dataAddr_eq] at ha
  rw [State.byteAfterRegStore, dif_neg (by omega)]

/-- Settles O28: every byte after the store is `byteAfterDigitStore`, whose three addresses hold the digits. -/
theorem decimalStoreWritesThreeDigits : Obligations.DecimalStoreWritesThreeDigits := by
  intro s x hw hb
  have hexec := exec_of_effect (i := .ldBcd x) (s := s) ⟨hb, rfl⟩
  have hread := ldBcd_read hexec hw
  exact ⟨_, hexec, setPc_pc _ _, rfl, hread _ ▸ byteAfterDigitStore_hundreds s x,
    hread _ ▸ byteAfterDigitStore_tens s x, hread _ ▸ byteAfterDigitStore_units s x,
    fun a ha => (hread a).trans (byteAfterDigitStore_outside x ha), frame_setMem_setIndex_setPc s _ s.i _⟩

/-- Settles O29: every byte after the store is `byteAfterRegStore`, which is register k at `I + k` in the block. -/
theorem registerStoreWritesTheBlock : Obligations.RegisterStoreWritesTheBlock := by
  intro s x hw hb
  have hexec := exec_of_effect (i := .storeRegs x) (s := s) ⟨hb, rfl⟩
  have hread := storeRegs_read hexec hw
  exact ⟨_, hexec, setPc_pc _ _, indexPast_toNat hb, fun k hk => (hread _).trans (byteAfterRegStore_inside hk),
    fun a ha => (hread a).trans (byteAfterRegStore_outside ha), frame_setMem_setIndex_setPc s _ _ _⟩

/-- Settles O30: a register within the loaded bytes holds its byte, one past them is as before. -/
theorem registerLoadReadsTheBlock : Obligations.RegisterLoadReadsTheBlock := by
  intro s x hb
  refine ⟨_, exec_of_effect ⟨hb, rfl⟩, setPc_pc _ _, indexPast_toNat hb, fun k hk => ?_, fun k hk => ?_, fun _ => rfl,
    ⟨rfl, rfl⟩, fun _ _ => rfl, ⟨rfl, rfl, rfl⟩⟩
  · have hlt : k.val < transferCount x := Nat.lt_succ_of_le hk
    rw [setPc_reg, setIndex_reg, setRegs_reg, List.getD_eq_getElem _ _ (by simpa using hlt), List.getElem_map,
      List.getElem_range]
    rfl
  · have hle : transferCount x ≤ k.val := Nat.lt_of_not_le hk
    rw [setPc_reg, setIndex_reg, setRegs_reg_of_length_le s (by simpa using hle)]

/-- Settles O32: no other instruction writes I but ANNN, whose operand is 12 bits wide, and a block in memory ends at most at
0x1000. -/
theorem onlyThreeInstructionsTakeIndexAboveFFF : Obligations.OnlyThreeInstructionsTakeIndexAboveFFF := by
  refine ⟨fun i s t hi h hle hgt => ?_, fun x s t h => ?_⟩
  · have he := effect_of_exec h
    obtain hsame | ⟨nnn, rfl⟩ | ⟨x, hx⟩ := index_of_effect he
    · rw [hsame] at hgt
      omega
    · obtain rfl := he
      have hn : nnn.toNat < 0x1000 := of_decide_eq_true hi
      rw [setPc_i, setIndex_i] at hgt
      omega
    · exact hx.imp (⟨x, ·⟩) (Or.imp (⟨x, ·⟩) (⟨x, ·⟩))
  · obtain h | h := h
    all_goals
      obtain ⟨hb, rfl⟩ := effect_of_exec h
      rw [setPc_i, setIndex_i, indexPast_toNat hb]
      exact hb

/-- A fetch in range joins the two bytes memory holds at `pc`. -/
theorem fetch_of_mem {u : State} {m : Memory} (hm : u.mem = m) (hpc : u.pc.toNat + 1 < 4096) :
    fetch u = some (joinBytes (m.read u.pc.toNat) (m.read (u.pc.toNat + 1))) :=
  hm ▸ fetch_some_iff.mpr ⟨hpc, rfl⟩

/-- Settles O33: the fetch reads the two bytes that memory holds after the store. -/
theorem storedRegistersAreFetchedNext : Obligations.StoredRegistersAreFetchedNext := by
  intro s t u x hw hm hpc
  rw [fetch_of_mem hm hpc]
  refine ⟨fun h => ?_, fun h => ?_⟩
  · rw [storeRegs_read h hw, storeRegs_read h hw]
  · rw [ldBcd_read h hw, ldBcd_read h hw]

/-! ### The canonical form -/

theorem Memory.wfFrom_cons_iff {lo a : Nat} {b : Byte} {rest : Memory} :
    Memory.wfFrom lo ((a, b) :: rest) = true ↔
      lo ≤ a ∧ a < 4096 ∧ b ≠ Memory.blank ∧ Memory.wfFrom (a + 1) rest = true := by
  simp only [Memory.wfFrom, Bool.and_eq_true, decide_eq_true_eq, and_assoc]

@[simp] theorem Memory.read_head (a : Nat) (b : Byte) (rest : Memory) : Memory.read ((a, b) :: rest) a = b := if_pos rfl

theorem Memory.read_tail {a k : Nat} (b : Byte) (rest : Memory) (h : a ≠ k) :
    Memory.read ((a, b) :: rest) k = Memory.read rest k := if_neg h

/-- A memory that reads as another one lists no address before the other's first. -/
theorem Memory.head_le {lo lo' a : Nat} {b : Byte} {rest m : Memory} (h : Memory.wfFrom lo ((a, b) :: rest) = true)
    (hm : Memory.wfFrom lo' m = true) (hread : m.read a = b) : lo' ≤ a := by
  obtain ⟨_, _, hb, _⟩ := Memory.wfFrom_cons_iff.mp h
  by_contra hlt
  exact hb (hread.symm.trans (Memory.read_below hm (by omega)))

theorem Memory.eq_of_read_eq {m m' : Memory} {lo lo' : Nat} (h : Memory.wfFrom lo m = true)
    (h' : Memory.wfFrom lo' m' = true) (hread : ∀ a, m.read a = m'.read a) : m = m' := by
  induction m generalizing m' lo lo' with
  | nil =>
    cases m' with
    | nil => rfl
    | cons c' rest' =>
      obtain ⟨_, _, hb', _⟩ := Memory.wfFrom_cons_iff.mp h'
      exact absurd ((Memory.read_head ..).symm.trans (hread c'.1).symm) hb'
  | cons c rest ih =>
    obtain ⟨a, b⟩ := c
    obtain ⟨_, hlt, hb, hrest⟩ := Memory.wfFrom_cons_iff.mp h
    cases m' with
    | nil => exact absurd ((Memory.read_head a b rest).symm.trans (hread a)) hb
    | cons c' rest' =>
      obtain ⟨a', b'⟩ := c'
      obtain ⟨_, hlt', hb', hrest'⟩ := Memory.wfFrom_cons_iff.mp h'
      have hle : a ≤ a' := Memory.head_le h' (Memory.wfFrom_cons_iff.mpr ⟨le_rfl, hlt, hb, hrest⟩)
        (by rw [hread, Memory.read_head])
      have hge : a' ≤ a := Memory.head_le h (Memory.wfFrom_cons_iff.mpr ⟨le_rfl, hlt', hb', hrest'⟩)
        (by rw [← hread, Memory.read_head])
      obtain rfl : a = a' := le_antisymm hle hge
      obtain rfl : b = b' := by rw [← Memory.read_head a b rest, hread, Memory.read_head]
      have htail : rest = rest' := by
        refine ih hrest hrest' fun k => ?_
        by_cases hk : k ≤ a
        · rw [Memory.read_below hrest (by omega), Memory.read_below hrest' (by omega)]
        · have hne : a ≠ k := by omega
          rw [← Memory.read_tail b rest hne, hread k, Memory.read_tail b rest' hne]
      rw [htail]

/-- Settles O44: by induction over both lists (`Memory.eq_of_read_eq`). -/
theorem canonicalMemoriesThatReadAlikeAreEqual : Obligations.CanonicalMemoriesThatReadAlikeAreEqual :=
  fun _ _ => Memory.eq_of_read_eq

end Machine

end Sys2Proof
end

section
/-! PROOFS. The host's operations (20_memory.md section 3, 60_exceptions.md section 4). -/

namespace Sys2Proof.Machine

/-- Settles O38: the case of `load_fault_iff` with the longer image. -/
theorem loadOfTooLongImageFaults : Obligations.LoadOfTooLongImageFaults :=
  fun _ _ hs hl => load_fault_iff.mpr ⟨hs, hl, rfl, rfl⟩

/-- Settles O37: every byte after the copy is that of `Memory.read_writeBytes`. -/
theorem loadPlacesTheImage : Obligations.LoadPlacesTheImage := by
  intro s image hs hw
  refine ⟨fun hl => ?_, fun hl => ⟨_, loadOfTooLongImageFaults s image hs hl, fun _ => rfl⟩⟩
  have hread := fun a => Memory.read_writeBytes (bytes := image) (k := 0x200) a hw (by omega)
  obtain ⟨hregs, hstack, hrest⟩ := frame_setMem_setIndex_setPc s (s.mem.writeBytes 0x200 image) s.i s.pc
  refine ⟨_, load_next_iff.mpr ⟨hs, hl, rfl⟩, fun k hk => ?_, fun a ha => ?_, rfl, hregs, rfl, hstack, hrest⟩
  · rw [setMem_mem, hread, if_pos (by omega), Nat.add_sub_cancel_left, List.getD_eq_getElem _ _ hk]
  · rw [setMem_mem, hread, if_neg ha]

theorem decrementTimer_toNat (t : Byte) : (decrementTimer t).toNat = t.toNat - 1 := by
  unfold decrementTimer
  split
  · next h => rw [h]; rfl
  · bv_omega

/-- Settles O39: each timer is lowered by `decrementTimer`. -/
theorem tickTimersSaturatesAtZero : Obligations.TickTimersSaturatesAtZero := by
  intro s
  exact ⟨decrementTimer_toNat s.dt, decrementTimer_toNat s.st, rfl, fun _ _ => rfl, rfl, ⟨rfl, rfl⟩, fun _ => rfl,
    fun _ _ => rfl, rfl⟩

end Sys2Proof.Machine
end

section
/-! PROOFS. DXYN (44_display.md section 2): the sprite's bits fall on different pixels, so each pixel is XORed at most once. -/

namespace Sys2Proof.Machine

/-! ### Where the bits of a sprite fall -/

/-- Sprite bit number j falls on this pixel (R234). -/
def OnBit (x0 y0 j : Nat) (x : Fin 64) (y : Fin 32) : Prop := x = destX x0 (j % 8) ∧ y = destY y0 (j / 8)

/-- A sprite of at most 32 rows has no two bits on one pixel. -/
theorem OnBit.off {x0 y0 j k : Nat} {x : Fin 64} {y : Fin 32} (hk : OnBit x0 y0 k x y) (hne : j ≠ k) (hjlt : j < 256)
    (hklt : k < 256) : ¬ OnBit x0 y0 j x y := by
  rintro ⟨rfl, rfl⟩
  obtain ⟨hx, hy⟩ := hk
  replace hx := congrArg Fin.val hx
  replace hy := congrArg Fin.val hy
  simp only [destX, destY, Fin.val_ofNat] at hx hy
  omega

theorem onBit_dest (x0 y0 j : Nat) : OnBit x0 y0 j (destX x0 (j % 8)) (destY y0 (j / 8)) := ⟨rfl, rfl⟩

theorem drawBit_pixel_on {x0 y0 j : Nat} {x : Fin 64} {y : Fin 32} (bit : Bool) (acc : Framebuffer × Bool)
    (h : OnBit x0 y0 j x y) : (drawBit x0 y0 j bit acc).1.pixel x y = (acc.1.pixel x y ^^ bit) := by
  rw [drawBit_pixel]
  exact if_pos h

theorem drawBit_pixel_off {x0 y0 j : Nat} {x : Fin 64} {y : Fin 32} (bit : Bool) (acc : Framebuffer × Bool)
    (h : ¬ OnBit x0 y0 j x y) : (drawBit x0 y0 j bit acc).1.pixel x y = acc.1.pixel x y := by
  rw [drawBit_pixel]
  exact if_neg h

/-! ### The bits from number j on -/

theorem drawFrom_pixel_off {x0 y0 j : Nat} {bits : List Bool} {acc : Framebuffer × Bool} {x : Fin 64} {y : Fin 32}
    (h : ∀ k, j ≤ k → k < j + bits.length → ¬ OnBit x0 y0 k x y) :
    (drawFrom x0 y0 j bits acc).1.pixel x y = acc.1.pixel x y := by
  induction bits generalizing j acc with
  | nil => rfl
  | cons bit bits ih =>
    rw [List.length_cons] at h
    rw [drawFrom, ih fun k hk hlt => h k (by omega) (by omega), drawBit_pixel_off _ _ (h j le_rfl (by omega))]

theorem drawFrom_pixel_on {x0 y0 j k : Nat} {bits : List Bool} {acc : Framebuffer × Bool} {x : Fin 64} {y : Fin 32}
    (h : OnBit x0 y0 (j + k) x y) (hk : k < bits.length) (hl : j + bits.length ≤ 256) :
    (drawFrom x0 y0 j bits acc).1.pixel x y = (acc.1.pixel x y ^^ bits.getD k false) := by
  induction bits generalizing j k acc with
  | nil => exact absurd hk (Nat.not_lt_zero k)
  | cons bit bits ih =>
    rw [List.length_cons] at hk hl
    rw [drawFrom]
    cases k with
    | zero =>
      rw [Nat.add_zero] at h
      rw [drawFrom_pixel_off fun l hl1 hl2 => h.off (by omega) (by omega) (by omega), drawBit_pixel_on _ _ h,
        List.getD_cons_zero]
    | succ k =>
      have hrest := ih (acc := drawBit x0 y0 j bit acc) (Nat.add_right_comm j 1 k ▸ h) (by omega) (by omega)
      rw [hrest, drawBit_pixel_off _ _ (h.off (by omega) (by omega) (by omega)), List.getD_cons_succ]

theorem drawFrom_flag {x0 y0 j : Nat} {bits : List Bool} {acc : Framebuffer × Bool} (hl : j + bits.length ≤ 256) :
    (drawFrom x0 y0 j bits acc).2 = true ↔
      acc.2 = true ∨ ∃ k < bits.length, bits.getD k false = true ∧
        acc.1.pixel (destX x0 ((j + k) % 8)) (destY y0 ((j + k) / 8)) = true := by
  induction bits generalizing j acc with
  | nil => simp [drawFrom]
  | cons bit bits ih =>
    rw [List.length_cons] at hl
    have hlater : ∀ k < bits.length, (drawBit x0 y0 j bit acc).1.pixel (destX x0 ((j + 1 + k) % 8))
        (destY y0 ((j + 1 + k) / 8)) = acc.1.pixel (destX x0 ((j + (k + 1)) % 8)) (destY y0 ((j + (k + 1)) / 8)) :=
      fun k hk => by
        rw [Nat.add_right_comm]
        exact drawBit_pixel_off _ _ ((onBit_dest x0 y0 _).off (by omega) (by omega) (by omega))
    rw [drawFrom, ih (by omega), drawBit_hit, Bool.or_eq_true, Bool.and_eq_true, or_assoc, List.length_cons,
      Nat.exists_lt_succ_left]
    refine or_congr_right (or_congr_right (exists_congr fun k => and_congr_right fun hk => ?_))
    rw [hlater k hk, List.getD_cons_succ]

/-! ### The sprite of DXYN, row by row -/

/-- The bits DXYN draws: the `n` bytes at I, most significant bit first (R232, R233). -/
def State.sprite (s : State) (n : Nat) : List Bool :=
  spriteBits ((List.range n).map fun k => s.mem.read (s.dataAddr 0 + k))

theorem sprite_length (s : State) (n : Nat) : (s.sprite n).length = 8 * n := by
  rw [State.sprite, spriteBits_length, List.length_map, List.length_range]

theorem sprite_getD (s : State) {n r c : Nat} (hr : r < n) (hc : c < 8) :
    (s.sprite n).getD (8 * r + c) false = (s.mem.read (s.dataAddr r)).getLsbD (7 - c) := by
  have hlen : r < ((List.range n).map fun k => s.mem.read (s.dataAddr 0 + k)).length := by simpa using hr
  rw [State.sprite, spriteBits_getD _ _ (by omega), show (8 * r + c) / 8 = r by omega, show (8 * r + c) % 8 = c by omega,
    List.getD_eq_getElem _ _ hlen, List.getElem_map, List.getElem_range]
  rfl

theorem onBit_iff {x0 y0 r c : Nat} (hc : c < 8) {x : Fin 64} {y : Fin 32} :
    OnBit x0 y0 (8 * r + c) x y ↔ x = destX x0 c ∧ y = destY y0 r := by
  rw [OnBit, show (8 * r + c) / 8 = r by omega, show (8 * r + c) % 8 = c by omega]

variable {s : State} {n : Nat} {vx vy : Byte} {fb : Framebuffer}

theorem draw_sprite_pixel_on (hn : n ≤ 32) {r c : Nat} (hr : r < n) (hc : c < 8) :
    (draw vx vy (s.sprite n) fb).1.pixel (destX vx.toNat c) (destY vy.toNat r) =
      (fb.pixel (destX vx.toNat c) (destY vy.toNat r) ^^ (s.mem.read (s.dataAddr r)).getLsbD (7 - c)) := by
  have hlen := sprite_length s n
  have hon : OnBit vx.toNat vy.toNat (0 + (8 * r + c)) (destX vx.toNat c) (destY vy.toNat r) := by
    rw [Nat.zero_add]
    exact (onBit_iff hc).mpr ⟨rfl, rfl⟩
  rw [draw, drawFrom_pixel_on hon (by omega) (by omega), sprite_getD s hr hc]

theorem draw_sprite_pixel_off {x : Fin 64} {y : Fin 32}
    (h : ∀ r c : Nat, r < n → c < 8 → ¬(x = destX vx.toNat c ∧ y = destY vy.toNat r)) :
    (draw vx vy (s.sprite n) fb).1.pixel x y = fb.pixel x y := by
  refine drawFrom_pixel_off fun k _ hk => ?_
  rw [sprite_length] at hk
  exact h (k / 8) (k % 8) (by omega) (by omega)

theorem draw_sprite_flag (hn : n ≤ 32) :
    (draw vx vy (s.sprite n) fb).2 = true ↔
      ∃ r c : Nat, r < n ∧ c < 8 ∧ (s.mem.read (s.dataAddr r)).getLsbD (7 - c) = true ∧
        fb.pixel (destX vx.toNat c) (destY vy.toNat r) = true := by
  have hlen := sprite_length s n
  rw [draw, drawFrom_flag (by omega), hlen]
  constructor
  · rintro (hfalse | ⟨k, hk, hbit, hpixel⟩)
    · cases hfalse
    · rw [Nat.zero_add] at hpixel
      refine ⟨k / 8, k % 8, by omega, by omega, ?_, hpixel⟩
      rw [← sprite_getD s (n := n) (by omega) (by omega), Nat.div_add_mod]
      exact hbit
  · rintro ⟨r, c, hr, hc, hbit, hpixel⟩
    refine .inr ⟨8 * r + c, by omega, by rwa [sprite_getD s hr hc], ?_⟩
    rwa [Nat.zero_add, show (8 * r + c) / 8 = r by omega, show (8 * r + c) % 8 = c by omega]

/-- DXYN in range, as one update of the state. -/
theorem exec_drw {s : State} {n : Nat} (x y : RegIx) (h : s.dataAddr 0 + max n 1 ≤ 4096) :
    exec (.drw x y n) s = .next (((s.setFb (draw (s.reg x) (s.reg y) (s.sprite n) s.fb).1).setReg vf
      (flagByte (draw (s.reg x) (s.reg y) (s.sprite n) s.fb).2)).setPc (s.pc + 2)) :=
  exec_of_effect ⟨h, _, rfl, rfl⟩

/-- Settles O35: the pixels and the flag are those of the drawn sprite, read from the state before VF is written. -/
theorem drawXorsTheWrappedSprite : Obligations.DrawXorsTheWrappedSprite := by
  intro s x y n hn h
  refine ⟨_, exec_drw x y h, fun r c hr hc => draw_sprite_pixel_on (by omega) hr hc,
    fun px py hoff => draw_sprite_pixel_off hoff, fun hhit => ?_, fun hmiss => ?_, setPc_pc _ _, fun r hr => ?_,
    rfl, ⟨rfl, rfl⟩, fun _ => rfl, ⟨rfl, rfl, rfl⟩⟩
  · have hflag := (draw_sprite_flag (s := s) (by omega)).mpr hhit
    exact (setReg_reg_same _ vf _).trans (congrArg flagByte hflag)
  · have hflag := mt (draw_sprite_flag (s := s) (vx := s.reg x) (vy := s.reg y) (fb := s.fb) (n := n) (by omega)).mp
      fun ⟨r, c, hr, hc, hbit, hpixel⟩ => Bool.false_ne_true ((hmiss r c hr hc hbit).symm.trans hpixel)
    exact (setReg_reg_same _ vf _).trans (congrArg flagByte (Bool.eq_false_of_not_eq_true hflag))
  · exact setReg_reg_other _ _ hr

/-- Settles O36: both draws put the same bits on the same pixels, so XOR cancels, and the second meets a set pixel under a set
bit exactly
where the first met a clear one. -/
theorem drawingTwiceRestoresTheScreen : Obligations.DrawingTwiceRestoresTheScreen := by
  intro s t u x y n hn hx hy hst htu
  obtain ⟨hs, _⟩ := effect_of_exec hst
  obtain ⟨ht, _⟩ := effect_of_exec htu
  obtain ⟨t', ht', hon, hoff, -, -, -, hregs, hi, -, hmem, -⟩ := drawXorsTheWrappedSprite s x y n hn hs
  cases hst.symm.trans ht'
  obtain ⟨u', hu', hon', hoff', hhit', hmiss', -⟩ := drawXorsTheWrappedSprite t x y n hn ht
  cases htu.symm.trans hu'
  have hbyte : ∀ r, t.mem.read (t.dataAddr r) = s.mem.read (s.dataAddr r) := fun r => by
    rw [dataAddr_eq, hi, ← dataAddr_eq, hmem]
  simp only [hregs x hx, hregs y hy, hbyte] at hon' hoff' hhit' hmiss'
  refine ⟨fun px py => ?_, fun hflag => ?_, fun ⟨r, c, hr, hc, hbit, hpixel⟩ => hhit' ⟨r, c, hr, hc, hbit, ?_⟩⟩
  · by_cases hunder : ∃ r c, r < n ∧ c < 8 ∧
        px = Fin.ofNat 64 ((s.reg x).toNat + c) ∧ py = Fin.ofNat 32 ((s.reg y).toNat + r)
    · obtain ⟨r, c, hr, hc, rfl, rfl⟩ := hunder
      rw [hon' r c hr hc, hon r c hr hc, Bool.xor_assoc, Bool.xor_self, Bool.xor_false]
    · have hnone := fun r c hr hc h => hunder ⟨r, c, hr, hc, h⟩
      rw [hoff' px py hnone, hoff px py hnone]
  · by_contra hnone
    refine absurd (hflag.symm.trans (hmiss' fun r c hr hc hbit => ?_)) (by decide)
    have hset := Bool.eq_true_of_not_eq_false fun hpixel => hnone ⟨r, c, hr, hc, hbit, hpixel⟩
    rw [hon r c hr hc, hbit, hset, Bool.xor_self]
  · rw [hon r c hr hc, hbit, hpixel, Bool.false_xor]

end Sys2Proof.Machine
end
